-- ==== Sys2Proof/Word.lean ====
section
/-! DEFINITION. The widths of 00_scope.md rule R7: what is a word, a half-word and a byte of the
CAN core's command interface. -/

namespace Sys2Proof

/-- A command or response word (R7, R101, R110): 32 bits. -/
abbrev Word := BitVec 32

/-- A 16-bit field: ids, keys, counts, event ids and event data (R7). -/
abbrev Half := BitVec 16

/-- An 8-bit field: type, dlc, ack status, CSR number, payload byte (R7). -/
abbrev Byte := BitVec 8

/-- The all-ones value of a 16-bit id field, "invalid/unset" (10_state.md R43). -/
def sentinel : Half := 0xFFFF#16

end Sys2Proof
end

