-- ==== Sys2Proof/Config.lean ====
section
/-! DEFINITION. The implementation parameters of 00_scope.md rule R6, as plain data, and the free
values of the model: the draws that R10 leaves to the environment, each an opaque constant applied
to the number of the draw. -/

namespace Sys2Proof

/-- `PQ_TIE`: order among equal priority keys (R6, R172). -/
inductive PqTie where
  | stable
  | any
  deriving DecidableEq, Repr

/-- `DUP_LOOKUP`: which entry a lookup of a duplicated id returns (R6, R203). -/
inductive DupLookup where
  | newest
  | any
  deriving DecidableEq, Repr

/-- The Transport agent's answer to one attempt (R353). -/
inductive TxAnswer where
  | ok
  | busy
  deriving DecidableEq, Repr, Inhabited

/-- The parameters "the model takes as arguments" (R6). No step changes them; a statement about
every state is a statement about every parameter value. -/
structure Params where
  /-- `RXQ_MAX_SLOTS`: most value slots the RX priority queue holds. -/
  rxqMaxSlots : Nat
  /-- `TXQ_CAPACITY`: entries in the TX FIFO. -/
  txqCapacity : Nat
  /-- `REG_MAX_ENTRIES`: most dispatch-table entries. -/
  regMaxEntries : Nat
  /-- `ACK_MAX_PENDING`: entries in the pending-ack table. -/
  ackMaxPending : Nat
  /-- `EVQ_CAPACITY`: entries of the environment's event queue. -/
  evqCapacity : Nat
  pqTie : PqTie
  dupLookup : DupLookup
  deriving DecidableEq, Repr

/-- The ranges of R6's table: 1..65535, and 1..∞ for the event queue. -/
abbrev Params.wf (p : Params) : Prop :=
  1 ≤ p.rxqMaxSlots ∧ p.rxqMaxSlots ≤ 65535 ∧
  1 ≤ p.txqCapacity ∧ p.txqCapacity ≤ 65535 ∧
  1 ≤ p.regMaxEntries ∧ p.regMaxEntries ≤ 65535 ∧
  1 ≤ p.ackMaxPending ∧ p.ackMaxPending ≤ 65535 ∧
  1 ≤ p.evqCapacity

/-- The parameter values that 95_test_vectors.md uses for its vectors. DESIGN CHOICE (log entry 1):
`State.reset` carries them so that those vectors can be run; no rule fixes them. -/
def Params.vectors : Params :=
  { rxqMaxSlots := 8, txqCapacity := 4, regMaxEntries := 8, ackMaxPending := 4, evqCapacity := 8,
    pqTie := .stable, dupLookup := .newest }

/-- Free value: in draw number n, the choices that pick R172's permutation (PQ_TIE = Any; log
entry 3). -/
opaque Config.tieDraw : Nat → Nat → Nat

/-- Free value: in draw number n, the choice among the entries of a duplicated id
(R203, DUP_LOOKUP = Any; log entry 3). -/
opaque Config.dupDraw : Nat → Nat

/-- Free value: in draw number n, the answer of the Transport agent to an attempt (R353; log
entries 3 and 9). -/
opaque Config.transportDraw : Nat → TxAnswer

end Sys2Proof
end

