-- ==== Sys2Proof/Syntax.lean ====
section
/-! DEFINITION. The commands of 30_encoding.md rule R104, one constructor for each row of the opcode
map, over the operand forms of rule R106. -/

namespace Sys2Proof

/-- The two command ports (R100, R102). -/
inductive Port where
  | host
  | isr
  deriving DecidableEq, Repr

/-- A frame record (10_state.md R41). -/
structure Frame where
  sourceId : Half
  msgId : Half
  /-- 0 = Data, 1 = Ack, 2..255 = not a type. -/
  ty : Byte
  dlc : Byte
  data : BitVec 64
  deriving DecidableEq, Repr

/-- One received frame of an RX_IRQ (R106, RXR): the wire identifier, the dlc nibble and the data. -/
structure RxRecord where
  wire : Half
  dlc : BitVec 4
  data : BitVec 64
  deriving DecidableEq, Repr

/-- The 24 commands (R104). -/
inductive Instr where
  /-- ID_ENCODE type=ty, msg, src (R140). -/
  | idEncode (ty : Byte) (msg src : Half)
  /-- ID_DECODE wire (R141). -/
  | idDecode (wire : Half)
  /-- PACK_U8 type, msg, src, b = [b0..b7] (R146). -/
  | packU8 (ty : Byte) (msg src : Half) (b0 b1 b2 b3 b4 b5 b6 b7 : Byte)
  /-- PACK_U16 type, msg, src, h = [h0..h3] (R147). -/
  | packU16 (ty : Byte) (msg src : Half) (h0 h1 h2 h3 : Half)
  /-- PACK_U32 type, msg, src, w = [w0, w1] (R148). -/
  | packU32 (ty : Byte) (msg src : Half) (w0 w1 : Word)
  /-- PACK_U64 type, msg, src, d (R149). -/
  | packU64 (ty : Byte) (msg src : Half) (d : BitVec 64)
  /-- PQ_INIT elems, nodes (R170). -/
  | pqInit (elems nodes : Half)
  /-- PQ_PUSH prio, FRAME (R171). -/
  | pqPush (prio : Half) (f : Frame)
  /-- PQ_POP (R173). -/
  | pqPop
  /-- PQ_PEEK (R174). -/
  | pqPeek
  /-- PQ_SIZE (R175). -/
  | pqSize
  /-- REG_INIT cap (R200). -/
  | regInit (cap : Half)
  /-- REG_DEFAULT cb, ctx (R201). -/
  | regDefault (cb ctx : Word)
  /-- REG_ADD msg, cb, ctx (R202). -/
  | regAdd (msg : Half) (cb ctx : Word)
  /-- REG_LOOKUP msg (R204). -/
  | regLookup (msg : Half)
  /-- ACK_TICK (R237). -/
  | ackTick
  /-- CAN_INIT dev, rx_ev, tx_ev, fault_ev (R260). -/
  | canInit (dev rxEv txEv faultEv : Half)
  /-- TRANSMIT FRAME, ack_cb, ack_ctx (R261). -/
  | transmit (f : Frame) (ackCb ackCtx : Word)
  /-- PROCESS_EVENT ev, data (R262). -/
  | processEvent (ev data : Half)
  /-- HANDLER_RETURN status, result (R263). -/
  | handlerReturn (ackStatus : Byte) (result : Half)
  /-- CSR_READ csr (R321). -/
  | csrRead (n : Byte)
  /-- CSR_WRITE csr, value (R322). -/
  | csrWrite (n : Byte) (v : Word)
  /-- RX_IRQ of k records (R280). -/
  | rxIrq (records : List RxRecord)
  /-- TX_READY_IRQ (R281). -/
  | txReadyIrq
  deriving DecidableEq, Repr

/-- The opcode of each command (R104), without operands. -/
inductive Opcode where
  | idEncode | idDecode | packU8 | packU16 | packU32 | packU64
  | pqInit | pqPush | pqPop | pqPeek | pqSize
  | regInit | regDefault | regAdd | regLookup
  | ackTick
  | canInit | transmit | processEvent | handlerReturn
  | csrRead | csrWrite
  | rxIrq | txReadyIrq
  deriving DecidableEq, Repr

/-- The opcode a command is written with (R131: every mnemonic stands for exactly one opcode). -/
def Instr.opcode : Instr → Opcode
  | .idEncode .. => .idEncode
  | .idDecode .. => .idDecode
  | .packU8 .. => .packU8
  | .packU16 .. => .packU16
  | .packU32 .. => .packU32
  | .packU64 .. => .packU64
  | .pqInit .. => .pqInit
  | .pqPush .. => .pqPush
  | .pqPop => .pqPop
  | .pqPeek => .pqPeek
  | .pqSize => .pqSize
  | .regInit .. => .regInit
  | .regDefault .. => .regDefault
  | .regAdd .. => .regAdd
  | .regLookup .. => .regLookup
  | .ackTick => .ackTick
  | .canInit .. => .canInit
  | .transmit .. => .transmit
  | .processEvent .. => .processEvent
  | .handlerReturn .. => .handlerReturn
  | .csrRead .. => .csrRead
  | .csrWrite .. => .csrWrite
  | .rxIrq .. => .rxIrq
  | .txReadyIrq => .txReadyIrq

end Sys2Proof
end

