-- ==== Sys2Proof/WellFormed.lean ====
section
/-! DEFINITION. Which terms of Instr the command interface can carry: the record count of an RX_IRQ
is its 8-bit aux8 field (30_encoding.md R104, R105); every other operand fits its field by its type. -/

namespace Sys2Proof

/-- An RX_IRQ carries k records with k in 0..255 (R104, R280). -/
def Instr.wf : Instr → Bool
  | .idEncode .. => true
  | .idDecode .. => true
  | .packU8 .. => true
  | .packU16 .. => true
  | .packU32 .. => true
  | .packU64 .. => true
  | .pqInit .. => true
  | .pqPush .. => true
  | .pqPop => true
  | .pqPeek => true
  | .pqSize => true
  | .regInit .. => true
  | .regDefault .. => true
  | .regAdd .. => true
  | .regLookup .. => true
  | .ackTick => true
  | .canInit .. => true
  | .transmit .. => true
  | .processEvent .. => true
  | .handlerReturn .. => true
  | .csrRead .. => true
  | .csrWrite .. => true
  | .rxIrq rs => decide (rs.length ≤ 255)
  | .txReadyIrq => true

end Sys2Proof
end

