-- ==== Sys2Proof/Decode.lean ====
section
/-! DEFINITION. Decoding of command words (30_encoding.md R101 to R107): total on every sequence of
words, rejecting by name; after it the encoder, written from the same tables, and the byte
serialisation of words (20_memory.md R82). -/

namespace Sys2Proof

/-- Why a sequence of words is no command: each is a cause of IllegalCommand (R103). -/
inductive Reject where
  /-- The sequence holds no header word. -/
  | noHeader
  /-- The opcode is not in R104. -/
  | undefinedOpcode
  /-- The opcode is illegal on the port (R102). -/
  | wrongPort
  /-- A header field the opcode marks reserved is not 0. -/
  | reservedHeader
  /-- The word count is not the opcode's (R105). -/
  | wrongWordCount
  /-- A reserved bit of an operand word is not 0 (R106). -/
  | reservedOperand
  deriving DecidableEq, Repr

/-! ## The opcode map (R104, R105) -/

/-- Every defined opcode, in R104's order. -/
def Opcode.all : List Opcode :=
  [.idEncode, .idDecode, .packU8, .packU16, .packU32, .packU64,
   .pqInit, .pqPush, .pqPop, .pqPeek, .pqSize,
   .regInit, .regDefault, .regAdd, .regLookup, .ackTick,
   .canInit, .transmit, .processEvent, .handlerReturn,
   .csrRead, .csrWrite, .rxIrq, .txReadyIrq]

/-- Column "opc" of R104. -/
def Opcode.byte : Opcode → Byte
  | .idEncode => 0x10#8
  | .idDecode => 0x11#8
  | .packU8 => 0x12#8
  | .packU16 => 0x13#8
  | .packU32 => 0x14#8
  | .packU64 => 0x15#8
  | .pqInit => 0x20#8
  | .pqPush => 0x21#8
  | .pqPop => 0x22#8
  | .pqPeek => 0x23#8
  | .pqSize => 0x24#8
  | .regInit => 0x30#8
  | .regDefault => 0x31#8
  | .regAdd => 0x32#8
  | .regLookup => 0x33#8
  | .ackTick => 0x40#8
  | .canInit => 0x50#8
  | .transmit => 0x51#8
  | .processEvent => 0x52#8
  | .handlerReturn => 0x53#8
  | .csrRead => 0x60#8
  | .csrWrite => 0x61#8
  | .rxIrq => 0x70#8
  | .txReadyIrq => 0x71#8

/-- The opcode with a given byte; none for the undefined opcodes of R104. -/
def Opcode.ofByte (b : Byte) : Option Opcode :=
  Opcode.all.find? fun op => op.byte = b

/-- Column "port" of R104, and R102. -/
def Opcode.port : Opcode → Port
  | .rxIrq => .isr
  | .txReadyIrq => .isr
  | _ => .host

/-- Column "aux8" of R104: whether the opcode has an operand there; otherwise it is reserved. -/
def Opcode.usesAux : Opcode → Bool
  | .idEncode => true
  | .packU8 => true
  | .packU16 => true
  | .packU32 => true
  | .packU64 => true
  | .handlerReturn => true
  | .csrRead => true
  | .csrWrite => true
  | .rxIrq => true
  | _ => false

/-- Column "imm16" of R104: whether the opcode has an operand there; otherwise it is reserved. -/
def Opcode.usesImm : Opcode → Bool
  | .idDecode => true
  | .pqInit => true
  | .pqPush => true
  | .regInit => true
  | .regAdd => true
  | .regLookup => true
  | .canInit => true
  | .processEvent => true
  | .handlerReturn => true
  | _ => false

/-- The operand words after the header (R104, R105); only RX_IRQ's count depends on aux8. -/
def Opcode.operandWords (op : Opcode) (aux : Byte) : Nat :=
  match op with
  | .idEncode => 1
  | .idDecode => 0
  | .packU8 => 9
  | .packU16 => 5
  | .packU32 => 3
  | .packU64 => 3
  | .pqInit => 1
  | .pqPush => 4
  | .pqPop => 0
  | .pqPeek => 0
  | .pqSize => 0
  | .regInit => 0
  | .regDefault => 2
  | .regAdd => 2
  | .regLookup => 0
  | .ackTick => 0
  | .canInit => 2
  | .transmit => 6
  | .processEvent => 1
  | .handlerReturn => 0
  | .csrRead => 0
  | .csrWrite => 1
  | .rxIrq => 3 * aux.toNat
  | .txReadyIrq => 0

/-- The port a command is legal on. -/
def Instr.port (i : Instr) : Port := i.opcode.port

/-! ## Header and operand fields (R101, R106, R41) -/

/-- Header field opc, bits 31:24. -/
def hdrOpc (h : Word) : Byte := h.extractLsb' 24 8

/-- Header field aux8, bits 23:16. -/
def hdrAux (h : Word) : Byte := h.extractLsb' 16 8

/-- Header field imm16, bits 15:0. -/
def hdrImm (h : Word) : Half := h.extractLsb' 0 16

/-- Bits 31:16 of an operand word. -/
def hiHalf (w : Word) : Half := w.extractLsb' 16 16

/-- Bits 15:0 of an operand word. -/
def loHalf (w : Word) : Half := w.extractLsb' 0 16

/-- Operand form B: one byte in bits 7:0, bits 31:8 reserved. -/
def byteOperand (w : Word) : Except Reject Byte :=
  if w.extractLsb' 8 24 = 0#24 then .ok (w.extractLsb' 0 8) else .error .reservedOperand

/-- Operand forms HW, CNT, EV1 and EVD: a half-word in bits 15:0, bits 31:16 reserved. -/
def halfOperand (w : Word) : Except Reject Half :=
  if hiHalf w = 0#16 then .ok (loHalf w) else .error .reservedOperand

/-- Operand form frame: the words F0..F3 of R41; F3 bits 31:16 are reserved. -/
def frameOperand (w0 w1 w2 w3 : Word) : Except Reject Frame :=
  if hiHalf w3 = 0#16 then
    .ok { sourceId := loHalf w2, msgId := hiHalf w2, ty := w3.extractLsb' 0 8,
          dlc := w3.extractLsb' 8 8, data := w1 ++ w0 }
  else .error .reservedOperand

/-- Operand form RXR (R106): one received frame in three words; R0 bits 31:20 are reserved. -/
def recordOperand (r0 r1 r2 : Word) : Except Reject RxRecord :=
  if r0.extractLsb' 20 12 = 0#12 then
    .ok { wire := loHalf r0, dlc := r0.extractLsb' 16 4, data := r2 ++ r1 }
  else .error .reservedOperand

/-- The k records of an RX_IRQ, three words each (R280). -/
def recordOperands : List Word → Except Reject (List RxRecord)
  | [] => .ok []
  | r0 :: r1 :: r2 :: rest =>
    match recordOperand r0 r1 r2, recordOperands rest with
    | .ok r, .ok rs => .ok (r :: rs)
    | .error e, _ => .error e
    | _, .error e => .error e
  | _ => .error .wrongWordCount

/-! ## Decoding (R103, R126) -/

/-- The command of an opcode with its header operands and operand words (R104, R106, R107). -/
def decodeOperands (op : Opcode) (aux : Byte) (imm : Half) (ws : List Word) :
    Except Reject Instr :=
  match op with
  | .idEncode =>
    match ws with
    | [w0] => .ok (.idEncode aux (hiHalf w0) (loHalf w0))
    | _ => .error .wrongWordCount
  | .idDecode => .ok (.idDecode imm)
  | .packU8 =>
    match ws with
    | [w0, w1, w2, w3, w4, w5, w6, w7, w8] => do
      let b0 ← byteOperand w1
      let b1 ← byteOperand w2
      let b2 ← byteOperand w3
      let b3 ← byteOperand w4
      let b4 ← byteOperand w5
      let b5 ← byteOperand w6
      let b6 ← byteOperand w7
      let b7 ← byteOperand w8
      .ok (.packU8 aux (hiHalf w0) (loHalf w0) b0 b1 b2 b3 b4 b5 b6 b7)
    | _ => .error .wrongWordCount
  | .packU16 =>
    match ws with
    | [w0, w1, w2, w3, w4] => do
      let h0 ← halfOperand w1
      let h1 ← halfOperand w2
      let h2 ← halfOperand w3
      let h3 ← halfOperand w4
      .ok (.packU16 aux (hiHalf w0) (loHalf w0) h0 h1 h2 h3)
    | _ => .error .wrongWordCount
  | .packU32 =>
    match ws with
    | [w0, w1, w2] => .ok (.packU32 aux (hiHalf w0) (loHalf w0) w1 w2)
    | _ => .error .wrongWordCount
  | .packU64 =>
    match ws with
    | [w0, w1, w2] => .ok (.packU64 aux (hiHalf w0) (loHalf w0) (w2 ++ w1))
    | _ => .error .wrongWordCount
  | .pqInit =>
    match ws with
    | [w0] => do
      let k ← halfOperand w0
      .ok (.pqInit imm k)
    | _ => .error .wrongWordCount
  | .pqPush =>
    match ws with
    | [w0, w1, w2, w3] => do
      let f ← frameOperand w0 w1 w2 w3
      .ok (.pqPush imm f)
    | _ => .error .wrongWordCount
  | .pqPop => .ok .pqPop
  | .pqPeek => .ok .pqPeek
  | .pqSize => .ok .pqSize
  | .regInit => .ok (.regInit imm)
  | .regDefault =>
    match ws with
    | [w0, w1] => .ok (.regDefault w0 w1)
    | _ => .error .wrongWordCount
  | .regAdd =>
    match ws with
    | [w0, w1] => .ok (.regAdd imm w0 w1)
    | _ => .error .wrongWordCount
  | .regLookup => .ok (.regLookup imm)
  | .ackTick => .ok .ackTick
  | .canInit =>
    match ws with
    | [w0, w1] => do
      let fe ← halfOperand w1
      .ok (.canInit imm (loHalf w0) (hiHalf w0) fe)
    | _ => .error .wrongWordCount
  | .transmit =>
    match ws with
    | [w0, w1, w2, w3, w4, w5] => do
      let f ← frameOperand w0 w1 w2 w3
      .ok (.transmit f w4 w5)
    | _ => .error .wrongWordCount
  | .processEvent =>
    match ws with
    | [w0] => do
      let d ← halfOperand w0
      .ok (.processEvent imm d)
    | _ => .error .wrongWordCount
  | .handlerReturn => .ok (.handlerReturn aux imm)
  | .csrRead => .ok (.csrRead aux)
  | .csrWrite =>
    match ws with
    | [w0] => .ok (.csrWrite aux w0)
    | _ => .error .wrongWordCount
  | .rxIrq => do
    let rs ← recordOperands ws
    .ok (.rxIrq rs)
  | .txReadyIrq => .ok .txReadyIrq

/-- Decode the words that arrive on a port (R103). Unassigned CSR numbers and an RX record's
dlc > 8, the remaining causes of IllegalCommand, are checked by the commands' meanings, as the
pseudocode of R280, R321 and R322 has them (log entry 8). -/
def decode (p : Port) (ws : List Word) : Except Reject Instr :=
  match ws with
  | [] => .error .noHeader
  | h :: ops =>
    match Opcode.ofByte (hdrOpc h) with
    | none => .error .undefinedOpcode
    | some op =>
      if op.port ≠ p then .error .wrongPort
      else if op.usesAux = false ∧ hdrAux h ≠ 0#8 then .error .reservedHeader
      else if op.usesImm = false ∧ hdrImm h ≠ 0#16 then .error .reservedHeader
      else if ops.length ≠ op.operandWords (hdrAux h) then .error .wrongWordCount
      else decodeOperands op (hdrAux h) (hdrImm h) ops

/-! ## Encoding -/

/-- A header word: opc in 31:24, aux8 in 23:16, imm16 in 15:0 (R101). -/
def header (op : Opcode) (aux : Byte) (imm : Half) : Word := op.byte ++ aux ++ imm

/-- IDW: msg_id in 31:16, source_id in 15:0 (R106). -/
def idWord (msg src : Half) : Word := msg ++ src

/-- A half-word in bits 15:0 with the reserved bits 31:16 zero. -/
def halfWord (h : Half) : Word := h.setWidth 32

/-- A byte in bits 7:0 with the reserved bits 31:8 zero. -/
def byteWord (b : Byte) : Word := b.setWidth 32

/-- F0 = data[31:0] (R41). -/
def Frame.f0 (f : Frame) : Word := f.data.extractLsb' 0 32

/-- F1 = data[63:32] (R41). -/
def Frame.f1 (f : Frame) : Word := f.data.extractLsb' 32 32

/-- F2 = msg_id in 31:16, source_id in 15:0 (R41). -/
def Frame.f2 (f : Frame) : Word := idWord f.msgId f.sourceId

/-- F3 = 0 in 31:16, dlc in 15:8, type in 7:0 (R41). -/
def Frame.f3 (f : Frame) : Word := 0#16 ++ f.dlc ++ f.ty

/-- The four words F0..F3 of a frame record (R41). -/
def Frame.words (f : Frame) : List Word := [f.f0, f.f1, f.f2, f.f3]

/-- The three words of an RXR record (R106). -/
def RxRecord.words (r : RxRecord) : List Word :=
  [0#12 ++ r.dlc ++ r.wire, r.data.extractLsb' 0 32, r.data.extractLsb' 32 32]

/-- The words of a command (R104, R106); reserved fields are 0. -/
def encode : Instr → List Word
  | .idEncode ty msg src => [header .idEncode ty 0, idWord msg src]
  | .idDecode w => [header .idDecode 0 w]
  | .packU8 ty msg src b0 b1 b2 b3 b4 b5 b6 b7 =>
    [header .packU8 ty 0, idWord msg src, byteWord b0, byteWord b1, byteWord b2, byteWord b3,
     byteWord b4, byteWord b5, byteWord b6, byteWord b7]
  | .packU16 ty msg src h0 h1 h2 h3 =>
    [header .packU16 ty 0, idWord msg src, halfWord h0, halfWord h1, halfWord h2, halfWord h3]
  | .packU32 ty msg src w0 w1 => [header .packU32 ty 0, idWord msg src, w0, w1]
  | .packU64 ty msg src d =>
    [header .packU64 ty 0, idWord msg src, d.extractLsb' 0 32, d.extractLsb' 32 32]
  | .pqInit n k => [header .pqInit 0 n, halfWord k]
  | .pqPush prio f => header .pqPush 0 prio :: f.words
  | .pqPop => [header .pqPop 0 0]
  | .pqPeek => [header .pqPeek 0 0]
  | .pqSize => [header .pqSize 0 0]
  | .regInit c => [header .regInit 0 c]
  | .regDefault cb ctx => [header .regDefault 0 0, cb, ctx]
  | .regAdd m cb ctx => [header .regAdd 0 m, cb, ctx]
  | .regLookup m => [header .regLookup 0 m]
  | .ackTick => [header .ackTick 0 0]
  | .canInit dev rx tx fe => [header .canInit 0 dev, tx ++ rx, halfWord fe]
  | .transmit f cb ctx => header .transmit 0 0 :: (f.words ++ [cb, ctx])
  | .processEvent e d => [header .processEvent 0 e, halfWord d]
  | .handlerReturn st r => [header .handlerReturn st r]
  | .csrRead n => [header .csrRead n 0]
  | .csrWrite n v => [header .csrWrite n 0, v]
  | .rxIrq rs => header .rxIrq (BitVec.ofNat 8 rs.length) 0 :: rs.flatMap RxRecord.words
  | .txReadyIrq => [header .txReadyIrq 0 0]

/-! ## Words as bytes (R82) -/

/-- Byte j of a word is bits 8j+7:8j; least significant byte first. -/
def wordBytes (w : Word) : List Byte :=
  [w.extractLsb' 0 8, w.extractLsb' 8 8, w.extractLsb' 16 8, w.extractLsb' 24 8]

/-- The words a port carries as bytes; none where the bytes end inside a word. -/
def wordsOfBytes : List Byte → Option (List Word)
  | [] => some []
  | b0 :: b1 :: b2 :: b3 :: rest => (wordsOfBytes rest).map fun ws => (b3 ++ b2 ++ b1 ++ b0) :: ws
  | _ => none

/-- Decode a command that a port carries as bytes (R82, D56: a partial word is no command). -/
def decodeBytes (p : Port) (bs : List Byte) : Except Reject Instr :=
  match wordsOfBytes bs with
  | some ws => decode p ws
  | none => .error .wrongWordCount

/-! ## One instruction given as a number (for the host's reading of the opcode table) -/

/-- The header word of an instruction whose bits are w: the first word. -/
def tableHeader (nbits w : Nat) : Word := BitVec.ofNat 32 (w % 2 ^ nbits)

/-- The words of an instruction whose bits are w, of which nbits are given and the rest are 0: as
many words as its header asks for, or as nbits fill. -/
def tableWords (nbits w : Nat) : List Word :=
  let h := tableHeader nbits w
  let n := match Opcode.ofByte (hdrOpc h) with
    | some op => 1 + op.operandWords (hdrAux h)
    | none => 1
  (List.range (max n ((nbits + 31) / 32))).map fun j => BitVec.ofNat 32 ((w % 2 ^ nbits) >>> (32 * j))

/-- The port such an instruction is sent to: its opcode's, the host port for an undefined one. -/
def tablePort (nbits w : Nat) : Port :=
  match Opcode.ofByte (hdrOpc (tableHeader nbits w)) with
  | some op => op.port
  | none => .host

/-- The instruction the decoder reads from an instruction whose bits are w. -/
def decodeTableWord (nbits w : Nat) : Option Instr :=
  match decode (tablePort nbits w) (tableWords nbits w) with
  | .ok i => some i
  | .error _ => none

end Sys2Proof
end

