-- ==== Sys2Proof/Machine/State.lean ====
section
/-! DEFINITION. The state of the CAN core (10_state.md R32), the environment's state the spec names
(R53), the inputs the other agents supply, and the reset values (70_reset_and_hazards.md R380). -/

namespace Sys2Proof.Machine

open Sys2Proof

/-- Response status codes (60_exceptions.md R340). -/
inductive Status where
  | ok
  | invalidArgument
  | resourceExhausted
  | notFound
  | empty
  | internalInconsistency
  | uninitialized
  | busy
  | illegalCommand
  | noCallout
  deriving DecidableEq, Repr

/-- The six sticky flags of `status` (R39). -/
inductive StatusBit where
  | rxOverrun
  | rxShort
  | rxInconsistent
  | ackDrop
  | txStall
  | ackNomatch
  deriving DecidableEq, Repr

/-- `fsm_state` (R38); the value 3 never occurs. -/
inductive FsmState where
  | idle
  | handlingRx
  | handlingTx
  deriving DecidableEq, Repr

/-- `eng_mode` (R51). -/
inductive EngMode where
  | idle
  | rx
  | tick
  deriving DecidableEq, Repr

/-- `eng_callout` (R51): the kind of callout outstanding. -/
inductive Callout where
  | none
  | handler
  | ackCb
  deriving DecidableEq, Repr

/-- The reason field of a CALLOUT_ACK (30_encoding.md R111). -/
inductive AckReason where
  | acked
  | timedOut
  deriving DecidableEq, Repr

/-- An entry of the RX priority queue (R44). -/
structure QEntry where
  key : Half
  frame : Frame
  deriving DecidableEq, Repr

/-- A handler: callback token and context word (43_dispatch.md R205). -/
structure Handler where
  cb : Word
  ctx : Word
  deriving DecidableEq, Repr

/-- An entry of the dispatch table (R48). -/
structure RegEntry where
  msgId : Half
  cb : Word
  ctx : Word
  deriving DecidableEq, Repr

/-- A pending-ack entry (R50). -/
structure AckEntry where
  msgId : BitVec 6
  cb : Word
  ctx : Word
  countdown : Half
  deriving DecidableEq, Repr

/-- An event of the environment's event queue (60_exceptions.md R352). -/
structure Event where
  id : Half
  data : Half
  deriving DecidableEq, Repr

/-- What one transmit attempt hands to the transport, and what the bus log records (R353). -/
structure BusFrame where
  wire : Half
  dlc : Byte
  bytes : List Byte
  deriving DecidableEq, Repr

/-- The block's own state: the tuple of R32, "and nothing else". -/
structure Block where
  /-- Initialisation flags (R34). -/
  init : Bool
  rxqInit : Bool
  regInit : Bool
  /-- Identity registers (R35). -/
  deviceId : Half
  rxEventId : Half
  txEventId : Half
  faultEventId : Half
  /-- Configuration registers (R36). -/
  dlcMode : Bool
  critMask : BitVec 64
  ackTimeout : Half
  txRetryLimit : Half
  /-- Consecutive busy answers for the head of the TX FIFO, saturating (R37). -/
  txFailCount : Half
  fsmState : FsmState
  /-- The six sticky flags, at the bit positions of CSR STATUS (R39, R320). -/
  status : BitVec 6
  /-- The RX priority queue, in service order (R44). -/
  rxqCap : Half
  rxq : List QEntry
  /-- The TX FIFO, in arrival order (R47). -/
  txq : List Frame
  /-- The dispatch table, in registration order, and its default handler (R48). -/
  regCap : Half
  reg : List RegEntry
  regDefault : Option Handler
  /-- The pending-ack table, in creation order (R50). -/
  ack : List AckEntry
  /-- The Engine state (R51). -/
  engMode : EngMode
  engRem : Half
  engCallout : Callout
  engCur : Frame
  engExpired : List AckEntry
  engCount : Half
  engStatus : Status
  deriving DecidableEq, Repr

/-- One turn of an agent other than the Engine, or an explicit Engine turn: the inputs of the
machine, in the one total order of 20_memory.md R90 (log entry 5). -/
inductive Turn where
  /-- The Host agent issues a command on the host port (R100). -/
  | host (ws : List Word)
  /-- The ISR agent issues a command on the ISR port (R100, R347). -/
  | isr (ws : List Word)
  /-- The Engine moves now, before the turns that follow (R270). -/
  | engine
  /-- The Host agent calls the event queue's process() (R352). -/
  | process
  /-- The Host agent issues PROCESS_EVENT with the event process() gave it (R359). -/
  | forward
  /-- A collaborator outside the block raises an event, for example the bus-health layer (R351). -/
  | collaborator (e : Event)
  /-- The reset input (R380). -/
  | reset
  deriving DecidableEq, Repr

/-- The whole machine: the block, the environment's state of R53, and the model's own fields. -/
structure State where
  /-- The block's state (R32). -/
  blk : Block
  /-- The environment's event queue, oldest first (R53, R352). -/
  evq : List Event
  /-- The frames the transport accepted, oldest first (R53, R353). -/
  busLog : List BusFrame
  /-- The implementation parameters (R6); no step changes them. -/
  params : Params
  /-- Model's own: the turns still to come, next first (log entry 5). -/
  turns : List Turn
  /-- Model's own: the turns that are listed again whenever none is left, so that a finite state has
  endless runs (log entry 20). -/
  turnCycle : List Turn
  /-- Model's own: the Transport agent's next answers (log entry 9). -/
  answers : List TxAnswer
  /-- Model's own: the answers that are listed again whenever none is left; where it too is empty the
  answer is free (log entries 9 and 20). -/
  answerCycle : List TxAnswer
  /-- Model's own: how many draws have been made; the free values are applied to it (log entry 3). -/
  draws : Nat
  /-- Model's own: the responses the host port has emitted, oldest first (R110, log entry 10). -/
  hostOut : List (List Word)
  /-- Model's own: the responses the ISR port has emitted, oldest first (R110, log entry 10). -/
  isrOut : List (List Word)
  /-- Model's own: what the Host agent's last process() returned and it has not yet forwarded (log
  entry 7). -/
  taken : Option Event
  deriving DecidableEq, Repr

/-- Why the machine faults: it has no reason to. "Every decodable and undecodable command has a
defined response, so the block never faults" (60_exceptions.md R360). -/
inductive Fault where
  deriving DecidableEq, Repr

/-- Why the model refuses. -/
inductive Refusal where
  /-- Raised by an arm of exec whose instruction has no meaning yet; safe. No arm of this model
  raises it. -/
  | notModelled (mnemonic : String)
  deriving DecidableEq, Repr

/-- The frame record with every field 0: the value of `eng_cur` at reset. DESIGN CHOICE (log entry
2): R51 leaves it unspecified. -/
def zeroFrame : Frame := { sourceId := 0, msgId := 0, ty := 0, dlc := 0, data := 0 }

/-- The block after reset (R380). -/
def Block.reset : Block :=
  { init := false, rxqInit := false, regInit := false,
    deviceId := sentinel, rxEventId := sentinel, txEventId := sentinel, faultEventId := sentinel,
    dlcMode := false, critMask := 0, ackTimeout := 0, txRetryLimit := 0, txFailCount := 0,
    fsmState := .idle, status := 0,
    rxqCap := 0, rxq := [], txq := [],
    regCap := 0, reg := [], regDefault := none,
    ack := [],
    engMode := .idle, engRem := 0, engCallout := .none, engCur := zeroFrame,
    engExpired := [], engCount := 0, engStatus := .ok }

/-- The machine right after reset: the block at R380's values, an environment in which nothing has
happened, and the parameter values of 95_test_vectors.md (log entry 1). -/
def State.reset : State :=
  { blk := Block.reset, evq := [], busLog := [], params := Params.vectors,
    turns := [], turnCycle := [], answers := [], answerCycle := [], draws := 0, hostOut := [],
    isrOut := [], taken := none }

/-- host_waiting (R51): a batch is running with no callout out, so the host is owed a response and
the Engine has a step (R270). -/
def Block.hostWaiting (b : Block) : Bool :=
  decide (b.engMode ≠ .idle) && decide (b.engCallout = .none)

end Sys2Proof.Machine
end

