-- ==== Sys2Proof/Machine/Operands.lean ====
section
/-! DEFINITION. Operand and result forms the meanings share: the payload views (10_state.md R40,
R80), frame validity (R42), the wire identifier (30_encoding.md R120), the derived length
(41_codec.md R143) and the words of responses (R110, R111). -/

namespace Sys2Proof.Machine

open Sys2Proof

/-! ## Payload views (R40, R80) -/

/-- u8 field i = data[8i+7:8i]. -/
def u8Field (data : BitVec 64) (i : Nat) : Byte := data.extractLsb' (8 * i) 8

/-- u16 field i = data[16i+15:16i]. -/
def u16Field (data : BitVec 64) (i : Nat) : Half := data.extractLsb' (16 * i) 16

/-- u32 field i = data[32i+31:32i]. -/
def u32Field (data : BitVec 64) (i : Nat) : Word := data.extractLsb' (32 * i) 32

/-- The payload whose u8 fields are b0..b7 (R146). -/
def dataOfBytes (b0 b1 b2 b3 b4 b5 b6 b7 : Byte) : BitVec 64 :=
  b7 ++ b6 ++ b5 ++ b4 ++ b3 ++ b2 ++ b1 ++ b0

/-- The payload whose u16 fields are h0..h3 (R147). -/
def dataOfHalves (h0 h1 h2 h3 : Half) : BitVec 64 := h3 ++ h2 ++ h1 ++ h0

/-- The payload whose u32 fields are w0, w1 (R148). -/
def dataOfWords (w0 w1 : Word) : BitVec 64 := w1 ++ w0

/-! ## Frame records -/

/-- A frame record is valid iff source_id ≤ 15, msg_id ≤ 63, type ≤ 1 and dlc ≤ 8 (R42). -/
def validFrame (f : Frame) : Bool :=
  decide (f.sourceId.toNat ≤ 15) && decide (f.msgId.toNat ≤ 63) &&
  decide (f.ty.toNat ≤ 1) && decide (f.dlc.toNat ≤ 8)

/-- The payload bytes handed to the transport: u8 fields 0..dlc-1 (R266). -/
def busBytes (f : Frame) : List Byte := (List.range f.dlc.toNat).map (u8Field f.data)

/-! ## The wire identifier (R120) -/

/-- wire = (msg << 5) | (type << 4) | src (R140, R266). -/
def wireOf (ty : Byte) (msg src : Half) : Half :=
  (msg <<< 5) ||| (ty.setWidth 16 <<< 4) ||| src

/-- The source id of a wire identifier, w[3:0]. -/
def wireSource (w : Half) : Half := (w.extractLsb' 0 4).setWidth 16

/-- The type of a wire identifier, w[4]. -/
def wireType (w : Half) : Byte := (w.extractLsb' 4 1).setWidth 8

/-- The message id of a wire identifier, w[10:5]; w[15:11] is ignored (R121). -/
def wireMsg (w : Half) : Half := (w.extractLsb' 5 6).setWidth 16

/-- The frame an RX_IRQ record delivers: bytes at index ≥ dlc are stored as 0 (R280). -/
def recordFrame (r : RxRecord) : Frame :=
  { sourceId := wireSource r.wire, msgId := wireMsg r.wire, ty := wireType r.wire,
    dlc := r.dlc.setWidth 8,
    data := r.data &&& BitVec.ofNat 64 (2 ^ (8 * r.dlc.toNat) - 1) }

/-! ## The derived length (R143) -/

/-- ffs64: the 1-based position of the least-significant set bit, 0 for no set bit. -/
def ffs64 (v : BitVec 64) : Nat :=
  match (List.range 64).find? fun i => v.getLsbD i with
  | some i => i + 1
  | none => 0

/-- msb64 (00_scope.md R11): the greatest set bit's position; only used for v ≠ 0. -/
def msb64 (v : BitVec 64) : Nat :=
  match (List.range 64).reverse.find? fun i => v.getLsbD i with
  | some i => i
  | none => 0

/-- dlc_of(data, mode): mode 0 (false) is the compatibility formula, mode 1 (true) the fixed one. -/
def dlcOf (data : BitVec 64) (mode : Bool) : Byte :=
  if mode = false then BitVec.ofNat 8 (8 - ffs64 data / 8)
  else if data = 0 then 0
  else BitVec.ofNat 8 (msb64 data / 8 + 1)

/-- mk_frame (R145): a packer stores the fields as given and derives the length. -/
def mkFrame (mode : Bool) (ty : Byte) (msg src : Half) (data : BitVec 64) : Frame :=
  { sourceId := src, msgId := msg, ty := ty, dlc := dlcOf data mode, data := data }

/-! ## Response words -/

/-- R0 = kind in 31:24, status in 23:16, val16 in 15:0 (R110). -/
def respWord (kind status : Byte) (val : Half) : Word := kind ++ status ++ val

/-- A CALLOUT_HANDLER response: handler cb, ctx and the frame (R111). -/
def calloutHandlerWords (h : Handler) (f : Frame) : List Word :=
  respWord 0x01 0x00 0 :: h.cb :: h.ctx :: f.words

/-- The code of a CALLOUT_ACK's reason (R111). -/
def AckReason.code : AckReason → Byte
  | .acked => 0x00
  | .timedOut => 0x01

/-- A CALLOUT_ACK response: ack cb, ctx, {msg_id, acker source}, {0, reason, ack status} (R111). -/
def calloutAckWords (e : AckEntry) (msg acker : Half) (reason : AckReason) (st : Byte) :
    List Word :=
  [respWord 0x02 0x00 0, e.cb, e.ctx, idWord msg acker, 0#16 ++ reason.code ++ st]

/-- The CALLOUT_ACK that delivers an expired entry: no acker, placeholder status 0xFF (R236). -/
def expiryWords (e : AckEntry) : List Word :=
  calloutAckWords e (e.msgId.setWidth 16) sentinel .timedOut 0xFF

end Sys2Proof.Machine
end

