-- ==== Sys2Proof/Machine/Flags.lean ====
section
/-! DEFINITION. The block's flags: response status codes (60_exceptions.md R340), the DONE response
that carries one, the sticky bits of `status` (10_state.md R39), the fsm_state codes (R38). -/

namespace Sys2Proof.Machine

open Sys2Proof

/-- The code of a status in R0[23:16] (R340). -/
def Status.code : Status → Byte
  | .ok => 0x00
  | .invalidArgument => 0x01
  | .resourceExhausted => 0x02
  | .notFound => 0x03
  | .empty => 0x04
  | .internalInconsistency => 0x05
  | .uninitialized => 0x06
  | .busy => 0x07
  | .illegalCommand => 0x08
  | .noCallout => 0x09

/-- A DONE response: kind 0x00, a status, val16 and the payload words (R110). -/
def doneWords (st : Status) (val : Half) (payload : List Word) : List Word :=
  respWord 0x00 st.code val :: payload

/-- The position of a sticky flag in CSR STATUS (R320). -/
def StatusBit.pos : StatusBit → Nat
  | .rxOverrun => 0
  | .rxShort => 1
  | .rxInconsistent => 2
  | .ackDrop => 3
  | .txStall => 4
  | .ackNomatch => 5

/-- `status` with one sticky flag set (R39). -/
def markStatus (st : BitVec 6) (b : StatusBit) : BitVec 6 := st ||| (1#6 <<< b.pos)

/-- Whether a sticky flag is set. -/
def statusFlag (st : BitVec 6) (b : StatusBit) : Bool := st.getLsbD b.pos

/-- `status` after a write of v to CSR STATUS: write 1 to clear, v[31:6] ignored (R322). -/
def clearStatus (st : BitVec 6) (v : Word) : BitVec 6 := st &&& ~~~(v.extractLsb' 0 6)

/-- The code of fsm_state (R38). -/
def FsmState.code : FsmState → BitVec 2
  | .idle => 0
  | .handlingRx => 1
  | .handlingTx => 2

/-- One more busy answer, saturating at 0xFFFF (R37). -/
def satIncr (n : Half) : Half := if n = 0xFFFF#16 then n else n + 1

end Sys2Proof.Machine
end

