-- ==== Sys2Proof/Machine/Ops.lean ====
section
/-! DEFINITION. The operations the meanings share: responses, events, the transport, the priority
queue's order, the CAM lookup, the critical predicate, the TX enqueue, the ACK reply, and callout
entry and return, which "play the part of trap entry and trap return" (60_exceptions.md R346). -/

namespace Sys2Proof.Machine

open Sys2Proof

/-! ## Responses (R110) -/

/-- The host port emits a response. -/
def State.respondHost (s : State) (ws : List Word) : State :=
  { s with hostOut := s.hostOut ++ [ws] }

/-- The ISR port emits a response. -/
def State.respondIsr (s : State) (ws : List Word) : State :=
  { s with isrOut := s.isrOut ++ [ws] }

/-- respond(DONE, st, val, payload) on the host port (00_scope.md R10). -/
def State.doneHost (s : State) (st : Status) (val : Half) (payload : List Word) : State :=
  s.respondHost (doneWords st val payload)

/-- respond(DONE, st, val) on the ISR port; no ISR-port response has payload words. -/
def State.doneIsr (s : State) (st : Status) (val : Half) : State :=
  s.respondIsr (doneWords st val [])

/-- raise st on the host port: the DONE response and no other effect (R10, R341). -/
def State.raiseHost (s : State) (st : Status) : State := s.doneHost st 0 []

/-- raise st on the ISR port. -/
def State.raiseIsr (s : State) (st : Status) : State := s.doneIsr st 0

/-- raise st on the port a command came from. -/
def State.raiseOn (s : State) (p : Port) (st : Status) : State :=
  match p with
  | .host => s.raiseHost st
  | .isr => s.raiseIsr st

/-! ## Small updates -/

/-- Replace the block's state. -/
def State.withBlk (s : State) (b : Block) : State := { s with blk := b }

/-- Set a sticky flag of `status` (R39). -/
def State.mark (s : State) (b : StatusBit) : State :=
  { s with blk.status := markStatus s.blk.status b }

/-- One draw has been made: the next one is applied to a fresh number. -/
def State.nextDraw (s : State) : State := { s with draws := s.draws + 1 }

/-! ## Collaborators (R352, R353) -/

/-- EvRaise(id, d): a raise on a full event queue is dropped, and the block is not told (R352). -/
def State.evRaise (s : State) (id d : Half) : State :=
  if s.evq.length < s.params.evqCapacity then { s with evq := s.evq ++ [{ id := id, data := d }] }
  else s

/-- The Transport agent's answers to come: those listed, and once they are used up those of its
cycle (R353). -/
def State.dueAnswers (s : State) : List TxAnswer :=
  match s.answers with
  | [] => s.answerCycle
  | a :: rest => a :: rest

/-- The Transport agent's answer to this attempt: the next one to come, else a free one (R353). -/
def State.nextAnswer (s : State) : TxAnswer :=
  match s.dueAnswers with
  | [] => Config.transportDraw s.draws
  | a :: _ => a

/-- The draw of the answer has been made. -/
def State.useAnswer (s : State) : State :=
  { s with answers := s.dueAnswers.tail, draws := s.draws + 1 }

/-- TxAttempt answered ok: the transport has taken the frame (R353). -/
def State.logBus (s : State) (f : BusFrame) : State := { s with busLog := s.busLog ++ [f] }

/-! ## The priority queue's order (42_pqueue.md R172) -/

/-- Insert x before position k of a list, at the end where the list is shorter. -/
def insertAtPos {α : Type} (k : Nat) (x : α) : List α → List α
  | [] => [x]
  | y :: ys =>
    match k with
    | 0 => x :: y :: ys
    | k + 1 => y :: insertAtPos k x ys

/-- The permutation of a list that a sequence of choices picks; every permutation is picked by some
sequence of choices. -/
def shuffle {α : Type} (choice : Nat → Nat) : List α → List α
  | [] => []
  | x :: xs => insertAtPos (choice xs.length % (xs.length + 1)) x (shuffle choice xs)

/-- retie(xs): the list itself under Stable, a drawn permutation under Any. -/
def retie (tie : PqTie) (draw : Nat) (xs : List QEntry) : List QEntry :=
  match tie with
  | .stable => xs
  | .any => shuffle (Config.tieDraw draw) xs

/-- The index of sel(xs): the first entry whose key is least. -/
def selIdx (xs : List QEntry) : Option Nat :=
  xs.findIdx? fun e => xs.all fun x => decide (e.key.toNat ≤ x.key.toNat)

/-- sel(xs) itself; none exactly for the empty list. -/
def sel (xs : List QEntry) : Option QEntry := (selIdx xs).bind fun i => xs[i]?

/-- xs without sel(xs): remove_at(xs, index of sel(xs)). -/
def withoutSel (xs : List QEntry) : List QEntry :=
  match selIdx xs with
  | some i => xs.eraseIdx i
  | none => xs

/-- S.rxq <- retie(xs), which draws once. -/
def State.setRxq (s : State) (xs : List QEntry) : State :=
  { s with blk.rxq := retie s.params.pqTie s.draws xs, draws := s.draws + 1 }

/-! ## The CAM lookup (43_dispatch.md R203) -/

/-- find(S, m): among the entries with message id m, in registration order, the newest one or a
drawn one. -/
def findReg (dup : DupLookup) (draw : Nat) (reg : List RegEntry) (m : Half) : Option RegEntry :=
  let ms := reg.filter fun e => e.msgId = m
  match dup with
  | .newest => ms.getLast?
  | .any => ms[Config.dupDraw draw % ms.length]?

/-! ## The critical predicate (44_ack.md R230) -/

/-- critical(S, f): a Data frame whose message id ≤ 63 has its bit set in crit_mask. -/
def critical (b : Block) (f : Frame) : Bool :=
  decide (f.ty = 0) && decide (f.msgId.toNat ≤ 63) && b.critMask.getLsbD f.msgId.toNat

/-! ## TX enqueue and ACK reply (45_rxtx.md R265, 44_ack.md R234) -/

/-- Whether tx_enqueue would answer full. -/
def State.txFull (s : State) : Bool := decide (s.blk.txq.length = s.params.txqCapacity)

/-- tx_enqueue(S, f) where the FIFO is not full: append, then raise (tx_event_id, 0). -/
def State.txEnqueue (s : State) (f : Frame) : State :=
  ({ s with blk.txq := s.blk.txq ++ [f] } : State).evRaise s.blk.txEventId 0

/-- The ACK reply frame: this device, the same message id, type Ack, dlc 1, the status byte. -/
def replyFrame (device msg : Half) (st : Byte) : Frame :=
  { sourceId := device, msgId := msg, ty := 1, dlc := 1, data := st.setWidth 64 }

/-- The ACK-reply step for a handled Data frame: reply if critical; a full FIFO loses the reply and
sets ACK_DROP (R234). -/
def State.ackReply (s : State) (f : Frame) (st : Byte) : State :=
  if critical s.blk f then
    if s.txFull then s.mark .ackDrop
    else s.txEnqueue (replyFrame s.blk.deviceId f.msgId st)
  else s

/-! ## Callout entry and return (R346) -/

/-- Callout entry: emit the callout and record its kind; the Engine state already in the block is
what it saves. -/
def State.enterCallout (s : State) (kind : Callout) (ws : List Word) : State :=
  ({ s with blk.engCallout := kind } : State).respondHost ws

/-- Callout return: nothing is outstanding any more; the Engine resumes from its saved state. -/
def State.leaveCallout (s : State) : State := { s with blk.engCallout := .none }

end Sys2Proof.Machine
end

