-- ==== Sys2Proof/Machine/Ack.lean ====
section
/-! DEFINITION. The frame ACK tracker (44_ack.md): resolution by an Ack frame, expiry by ACK_TICK
and the tick Engine step. The receiver side, the ACK reply, is State.ackReply in Ops. -/

namespace Sys2Proof.Machine

open Sys2Proof

/-- The index of the oldest pending entry with a message id (R235). -/
def ackIdx (ack : List AckEntry) (msg : Half) : Option Nat :=
  ack.findIdx? fun e => decide (e.msgId.setWidth 16 = msg)

/-- Resolution by an Ack frame f (R235): match by message id only, oldest first; an unmatched Ack
sets ACK_NOMATCH. -/
def State.resolve (s : State) (f : Frame) : State :=
  match ackIdx s.blk.ack f.msgId with
  | none => s.mark .ackNomatch
  | some i =>
    match s.blk.ack[i]? with
    | none => s.mark .ackNomatch
    | some e =>
      ({ s with blk.ack := s.blk.ack.eraseIdx i } : State).enterCallout .ackCb
        (calloutAckWords e f.msgId f.sourceId .acked (u8Field f.data 0))

/-- The entries that expire in this tick, in creation order (R237). -/
def expiring (ack : List AckEntry) : List AckEntry :=
  ack.filter fun e => decide (e.countdown = 1)

/-- The entries that stay, countdowns ≥ 2 decremented and 0 kept (R237). -/
def ticked (ack : List AckEntry) : List AckEntry :=
  (ack.filter fun e => decide (e.countdown ≠ 1)).map fun e =>
    if e.countdown = 0 then e else { e with countdown := e.countdown - 1 }

/-- ACK_TICK (R237): one tick; if entries expire, a tick batch begins and its output is the
response. -/
def execAckTick (s : State) : Host.Outcome State Fault Refusal :=
  if s.blk.engCallout ≠ .none then .next (s.raiseHost .busy)
  else if s.blk.init = false then .next (s.raiseHost .uninitialized)
  else
    let t : State := { s with blk.ack := ticked s.blk.ack }
    if expiring s.blk.ack = [] then .next (t.doneHost .ok 0 [])
    else
      .next { t with blk.engMode := .tick, blk.engExpired := expiring s.blk.ack,
                     blk.engCount := 0 }

/-- The tick Engine step (R238): deliver the next expired entry, or end the batch with the count. -/
def tickStep (s : State) : State :=
  match s.blk.engExpired with
  | [] =>
    ({ s with blk.engMode := .idle, blk.engCount := 0 } : State).doneHost .ok s.blk.engCount []
  | e :: rest =>
    ({ s with blk.engExpired := rest, blk.engCount := s.blk.engCount + 1 } : State).enterCallout
      .ackCb (expiryWords e)

end Sys2Proof.Machine
end

