-- ==== Sys2Proof/Machine/Codec.lean ====
section
/-! DEFINITION. The identifier and frame codec (41_codec.md): stateless but for dlc_mode, which the
packers read; no command here needs an initialisation or writes the block's state. -/

namespace Sys2Proof.Machine

open Sys2Proof

/-- ID_ENCODE (R140): a field out of range is InvalidArgument; nothing is truncated. -/
def execIdEncode (ty : Byte) (msg src : Half) (s : State) : Host.Outcome State Fault Refusal :=
  if src.toNat > 15 ∨ msg.toNat > 63 ∨ ty.toNat > 1 then .next (s.raiseHost .invalidArgument)
  else .next (s.doneHost .ok (wireOf ty msg src) [])

/-- ID_DECODE (R141): words {msg, src} and {0, dlc = 0, type}; bits 15:11 are ignored. -/
def execIdDecode (w : Half) (s : State) : Host.Outcome State Fault Refusal :=
  .next (s.doneHost .ok 0 [idWord (wireMsg w) (wireSource w), byteWord (wireType w)])

/-- The common packer semantics (R145): build the frame and return its words. -/
def pack (ty : Byte) (msg src : Half) (data : BitVec 64) (s : State) : State :=
  s.doneHost .ok 0 (mkFrame s.blk.dlcMode ty msg src data).words

/-- PACK_U8 (R146). -/
def execPackU8 (ty : Byte) (msg src : Half) (b0 b1 b2 b3 b4 b5 b6 b7 : Byte) (s : State) :
    Host.Outcome State Fault Refusal :=
  .next (pack ty msg src (dataOfBytes b0 b1 b2 b3 b4 b5 b6 b7) s)

/-- PACK_U16 (R147). -/
def execPackU16 (ty : Byte) (msg src : Half) (h0 h1 h2 h3 : Half) (s : State) :
    Host.Outcome State Fault Refusal :=
  .next (pack ty msg src (dataOfHalves h0 h1 h2 h3) s)

/-- PACK_U32 (R148). -/
def execPackU32 (ty : Byte) (msg src : Half) (w0 w1 : Word) (s : State) :
    Host.Outcome State Fault Refusal :=
  .next (pack ty msg src (dataOfWords w0 w1) s)

/-- PACK_U64 (R149). -/
def execPackU64 (ty : Byte) (msg src : Half) (d : BitVec 64) (s : State) :
    Host.Outcome State Fault Refusal :=
  .next (pack ty msg src d s)

end Sys2Proof.Machine
end

