-- ==== Sys2Proof/Machine/Csr.lean ====
section
/-! DEFINITION. The control and status registers (46_csr.md). CSR_READ and CSR_WRITE need no
initialisation and are accepted while a callout is outstanding. -/

namespace Sys2Proof.Machine

open Sys2Proof

/-- The assigned CSRs (R320). -/
inductive Csr where
  | ctrl
  | status
  | deviceId
  | eventIds
  | faultEventId
  | critMaskLo
  | critMaskHi
  | ackTimeout
  | txRetryLimit
  | txFailCount
  | fsmState
  | rxqInfo
  | txqInfo
  | regInfo
  | ackInfo
  deriving DecidableEq, Repr

/-- The CSR of a number; none for the unassigned 0x0F..0xFF (R320). -/
def csrOfNum (n : Byte) : Option Csr :=
  match n.toNat with
  | 0x00 => some .ctrl
  | 0x01 => some .status
  | 0x02 => some .deviceId
  | 0x03 => some .eventIds
  | 0x04 => some .faultEventId
  | 0x05 => some .critMaskLo
  | 0x06 => some .critMaskHi
  | 0x07 => some .ackTimeout
  | 0x08 => some .txRetryLimit
  | 0x09 => some .txFailCount
  | 0x0A => some .fsmState
  | 0x0B => some .rxqInfo
  | 0x0C => some .txqInfo
  | 0x0D => some .regInfo
  | 0x0E => some .ackInfo
  | _ => none

/-- CTRL: INIT, DLC_MODE, RXQ_INIT, REG_INIT in bits 0 to 3 (R320). -/
def ctrlValue (b : Block) : Word :=
  0#28 ++ BitVec.ofBool b.regInit ++ BitVec.ofBool b.rxqInit ++ BitVec.ofBool b.dlcMode ++
    BitVec.ofBool b.init

/-- An occupancy CSR: the length in 15:0, the capacity in 31:16 (R320). -/
def infoValue (cap len : Nat) : Word := BitVec.ofNat 16 cap ++ BitVec.ofNat 16 len

/-- csr_value(S, n) (R320, R321): the fields of the map, reserved bits 0. -/
def csrValue (s : State) : Csr → Word
  | .ctrl => ctrlValue s.blk
  | .status => s.blk.status.setWidth 32
  | .deviceId => halfWord s.blk.deviceId
  | .eventIds => s.blk.txEventId ++ s.blk.rxEventId
  | .faultEventId => halfWord s.blk.faultEventId
  | .critMaskLo => s.blk.critMask.extractLsb' 0 32
  | .critMaskHi => s.blk.critMask.extractLsb' 32 32
  | .ackTimeout => halfWord s.blk.ackTimeout
  | .txRetryLimit => halfWord s.blk.txRetryLimit
  | .txFailCount => halfWord s.blk.txFailCount
  | .fsmState => s.blk.fsmState.code.setWidth 32
  | .rxqInfo => infoValue s.blk.rxqCap.toNat s.blk.rxq.length
  | .txqInfo => infoValue s.params.txqCapacity s.blk.txq.length
  | .regInfo => infoValue s.blk.regCap.toNat s.blk.reg.length
  | .ackInfo => infoValue s.params.ackMaxPending s.blk.ack.length

/-- The block after v is written to a CSR; none for a read-only one (R322, R323). -/
def csrWritten (b : Block) (v : Word) : Csr → Option Block
  | .ctrl => some { b with dlcMode := v.getLsbD 1 }
  | .status => some { b with status := clearStatus b.status v }
  | .deviceId => none
  | .eventIds => none
  | .faultEventId => none
  | .critMaskLo => some { b with critMask := b.critMask.extractLsb' 32 32 ++ v }
  | .critMaskHi => some { b with critMask := v ++ b.critMask.extractLsb' 0 32 }
  | .ackTimeout => some { b with ackTimeout := loHalf v }
  | .txRetryLimit => some { b with txRetryLimit := loHalf v }
  | .txFailCount => none
  | .fsmState => none
  | .rxqInfo => none
  | .txqInfo => none
  | .regInfo => none
  | .ackInfo => none

/-- CSR_READ (R321): an unassigned number is IllegalCommand. -/
def execCsrRead (n : Byte) (s : State) : Host.Outcome State Fault Refusal :=
  match csrOfNum n with
  | none => .next (s.raiseHost .illegalCommand)
  | some c => .next (s.doneHost .ok 0 [csrValue s c])

/-- CSR_WRITE (R322): an unassigned number is IllegalCommand, a read-only CSR InvalidArgument. -/
def execCsrWrite (n : Byte) (v : Word) (s : State) : Host.Outcome State Fault Refusal :=
  match csrOfNum n with
  | none => .next (s.raiseHost .illegalCommand)
  | some c =>
    match csrWritten s.blk v c with
    | none => .next (s.raiseHost .invalidArgument)
    | some b => .next ((s.withBlk b).doneHost .ok 0 [])

end Sys2Proof.Machine
end

