-- ==== Sys2Proof/Machine/PQueue.lean ====
section
/-! DEFINITION. The bounded priority queue (42_pqueue.md). Every command but PQ_INIT needs
rxq_init; PQ_INIT is Busy while a callout is outstanding (60_exceptions.md R342, R344). -/

namespace Sys2Proof.Machine

open Sys2Proof

/-- PQ_INIT (R170): size and empty the queue. -/
def execPqInit (n k : Half) (s : State) : Host.Outcome State Fault Refusal :=
  if s.blk.engCallout ≠ .none then .next (s.raiseHost .busy)
  else if k.toNat ≠ n.toNat + 1 ∨ n.toNat > s.params.rxqMaxSlots then
    .next (s.raiseHost .invalidArgument)
  else
    .next (({ s with blk.rxqCap := n, blk.rxq := [], blk.rxqInit := true } : State).doneHost .ok 0 [])

/-- PQ_PUSH (R171): the frame is stored as given, with the host's key. -/
def execPqPush (prio : Half) (f : Frame) (s : State) : Host.Outcome State Fault Refusal :=
  if s.blk.rxqInit = false then .next (s.raiseHost .uninitialized)
  else if s.blk.rxq.length = s.blk.rxqCap.toNat then .next (s.raiseHost .resourceExhausted)
  else .next ((s.setRxq (s.blk.rxq ++ [{ key := prio, frame := f }])).doneHost .ok 0 [])

/-- PQ_POP (R173): remove and return the entry served next, its key in val16. -/
def execPqPop (s : State) : Host.Outcome State Fault Refusal :=
  if s.blk.rxqInit = false then .next (s.raiseHost .uninitialized)
  else
    match sel s.blk.rxq with
    | none => .next (s.raiseHost .empty)
    | some e => .next ((s.setRxq (withoutSel s.blk.rxq)).doneHost .ok e.key e.frame.words)

/-- PQ_PEEK (R174): the same entry, not removed; retie is not applied. -/
def execPqPeek (s : State) : Host.Outcome State Fault Refusal :=
  if s.blk.rxqInit = false then .next (s.raiseHost .uninitialized)
  else
    match sel s.blk.rxq with
    | none => .next (s.raiseHost .empty)
    | some e => .next (s.doneHost .ok e.key e.frame.words)

/-- PQ_SIZE (R175). -/
def execPqSize (s : State) : Host.Outcome State Fault Refusal :=
  if s.blk.rxqInit = false then .next (s.raiseHost .uninitialized)
  else .next (s.doneHost .ok (BitVec.ofNat 16 s.blk.rxq.length) [])

end Sys2Proof.Machine
end

