-- ==== Sys2Proof/Machine/Registry.lean ====
section
/-! DEFINITION. The CAM-backed receive dispatch table (43_dispatch.md). Every command but REG_INIT
needs reg_init; REG_INIT is Busy while a callout is outstanding (60_exceptions.md R342, R344). -/

namespace Sys2Proof.Machine

open Sys2Proof

/-- REG_INIT (R200): set the capacity, remove every handler and the default. -/
def execRegInit (c : Half) (s : State) : Host.Outcome State Fault Refusal :=
  if s.blk.engCallout ≠ .none then .next (s.raiseHost .busy)
  else if c.toNat > s.params.regMaxEntries then .next (s.raiseHost .invalidArgument)
  else
    .next (({ s with blk.regCap := c, blk.reg := [], blk.regDefault := none,
                     blk.regInit := true } : State).doneHost .ok 0 [])

/-- REG_DEFAULT (R201): replace the default handler. -/
def execRegDefault (cb ctx : Word) (s : State) : Host.Outcome State Fault Refusal :=
  if s.blk.regInit = false then .next (s.raiseHost .uninitialized)
  else
    .next (({ s with blk.regDefault := some { cb := cb, ctx := ctx } } : State).doneHost .ok 0 [])

/-- REG_ADD (R202): append an entry; a duplicate id takes a second entry. -/
def execRegAdd (m : Half) (cb ctx : Word) (s : State) : Host.Outcome State Fault Refusal :=
  if s.blk.regInit = false then .next (s.raiseHost .uninitialized)
  else if m.toNat > 63 then .next (s.raiseHost .invalidArgument)
  else if s.blk.reg.length = s.blk.regCap.toNat then .next (s.raiseHost .resourceExhausted)
  else
    .next (({ s with blk.reg := s.blk.reg ++ [{ msgId := m, cb := cb, ctx := ctx }] } :
      State).doneHost .ok 0 [])

/-- REG_LOOKUP (R204): the entry found, never the default; the lookup draws once (R203). -/
def execRegLookup (m : Half) (s : State) : Host.Outcome State Fault Refusal :=
  if s.blk.regInit = false then .next (s.raiseHost .uninitialized)
  else
    match findReg s.params.dupLookup s.draws s.blk.reg m with
    | none => .next (s.nextDraw.raiseHost .notFound)
    | some e => .next (s.nextDraw.doneHost .ok 0 [e.cb, e.ctx])

end Sys2Proof.Machine
end

