-- ==== Sys2Proof/Machine/RxTx.lean ====
section
/-! DEFINITION. The RX/TX processing state machine and transmit pacing (45_rxtx.md): CAN_INIT, the
transmit path, event processing, the RX Engine step and the interrupt-side commands. -/

namespace Sys2Proof.Machine

open Sys2Proof

/-- The event ids CAN_INIT refuses: the sentinel, or two that are equal (R260). -/
def badEventIds (rx tx fe : Half) : Bool :=
  decide (rx = sentinel) || decide (tx = sentinel) || decide (fe = sentinel) ||
  decide (rx = tx) || decide (rx = fe) || decide (tx = fe)

/-- CAN_INIT (R260): set the identity registers, empty the transmit side. -/
def execCanInit (dev rx tx fe : Half) (s : State) : Host.Outcome State Fault Refusal :=
  if s.blk.engCallout ≠ .none then .next (s.raiseHost .busy)
  else if dev.toNat > 15 then .next (s.raiseHost .invalidArgument)
  else if badEventIds rx tx fe then .next (s.raiseHost .invalidArgument)
  else
    .next (({ s with blk.deviceId := dev, blk.rxEventId := rx, blk.txEventId := tx,
                     blk.faultEventId := fe, blk.txq := [], blk.ack := [],
                     blk.fsmState := .idle, blk.txFailCount := 0, blk.init := true } :
      State).doneHost .ok 0 [])

/-- The pending-ack entry a critical TRANSMIT opens (44_ack.md R231). -/
def newAckEntry (b : Block) (f : Frame) (cb ctx : Word) : AckEntry :=
  { msgId := f.msgId.setWidth 6, cb := cb, ctx := ctx, countdown := b.ackTimeout }

/-- Open a pending-ack request for a critical frame (R231); nothing for any other frame. -/
def State.openAck (s : State) (f : Frame) (cb ctx : Word) : State :=
  if critical s.blk f then { s with blk.ack := s.blk.ack ++ [newAckEntry s.blk f cb ctx] } else s

/-- TRANSMIT (R261): the pending-ack table is checked before the TX FIFO, and both before anything
changes. -/
def execTransmit (f : Frame) (cb ctx : Word) (s : State) : Host.Outcome State Fault Refusal :=
  if s.blk.init = false then .next (s.raiseHost .uninitialized)
  else if validFrame f = false then .next (s.raiseHost .invalidArgument)
  else if critical s.blk f ∧ s.blk.ack.length = s.params.ackMaxPending then
    .next (s.raiseHost .resourceExhausted)
  else if s.txFull then .next (s.raiseHost .resourceExhausted)
  else .next (((s.txEnqueue f).openAck f cb ctx).doneHost .ok 0 [])

/-! ## TX processing (R266) -/

/-- What the transport is asked to take: wire id, dlc and u8 fields 0..dlc-1 of the head. -/
def busFrame (f : Frame) : BusFrame :=
  { wire := wireOf f.ty f.msgId f.sourceId, dlc := f.dlc, bytes := busBytes f }

/-- The transport answered ok: the frame leaves the FIFO and the fail count is cleared. -/
def State.txAccepted (s : State) (f : Frame) : State :=
  (s.logBus (busFrame f)).withBlk { s.blk with txq := s.blk.txq.tail, txFailCount := 0 }

/-- The transport answered busy: count it, then re-raise the TX event, or stall at the limit. -/
def State.txRefused (s : State) : State :=
  let n := satIncr s.blk.txFailCount
  let t : State := { s with blk.txFailCount := n }
  if s.blk.txRetryLimit = 0 ∨ n.toNat < s.blk.txRetryLimit.toNat then t.evRaise s.blk.txEventId 0
  else t.mark .txStall

/-- tx_process(S): one attempt for the head of the FIFO, none for an empty one. -/
def State.txProcess (s : State) : State :=
  match s.blk.txq with
  | [] => s
  | f :: _ =>
    match s.nextAnswer with
    | .ok => s.useAnswer.txAccepted f
    | .busy => s.useAnswer.txRefused

/-! ## Event processing -/

/-- PROCESS_EVENT (R262): an RX event begins a batch whose output is the response; a TX event is one
attempt; any other id is unhandled. -/
def execProcessEvent (e d : Half) (s : State) : Host.Outcome State Fault Refusal :=
  if s.blk.engCallout ≠ .none then .next (s.raiseHost .busy)
  else if s.blk.init = false then .next (s.raiseHost .uninitialized)
  else if e = s.blk.rxEventId then
    .next { s with blk.fsmState := .handlingRx, blk.engMode := .rx, blk.engRem := d,
                   blk.engStatus := .ok }
  else if e = s.blk.txEventId then
    .next (({ s with blk.fsmState := .handlingTx } : State).txProcess.doneHost .ok 1 [])
  else .next (s.doneHost .ok 0 [])

/-- HANDLER_RETURN (R263): the answer to a callout; `result` is ignored, and after a handler callout
the ACK-reply step runs with the returned status. No response yet: the Engine continues. -/
def execHandlerReturn (st : Byte) (_result : Half) (s : State) :
    Host.Outcome State Fault Refusal :=
  match s.blk.engCallout with
  | .none => .next (s.raiseHost .noCallout)
  | .handler => .next (s.leaveCallout.ackReply s.blk.engCur st)
  | .ackCb => .next s.leaveCallout

/-! ## The RX Engine step (R271, R275) -/

/-- rx_finish(S): end the batch with eng_status; the event was handled, so val16 = 1. -/
def State.rxFinish (s : State) : State :=
  ({ s with blk.engMode := .idle, blk.engRem := 0, blk.engStatus := .ok } : State).doneHost
    s.blk.engStatus 1 []

/-- The handler of a Data frame: its entry, else the default; none in an uninitialised table. -/
def State.handlerFor (s : State) (msg : Half) : Option Handler :=
  if s.blk.regInit = false then none
  else
    match findReg s.params.dupLookup s.draws s.blk.reg msg with
    | some e => some { cb := e.cb, ctx := e.ctx }
    | none => s.blk.regDefault

/-- dispatch(S, f) (R275): call out to the handler, or reply "ok" if the frame is critical. The
lookup draws once. -/
def State.dispatch (s : State) (f : Frame) : State :=
  match s.handlerFor f.msgId with
  | some h =>
    ({ s.nextDraw with blk.engCur := f } : State).enterCallout .handler (calloutHandlerWords h f)
  | none => s.nextDraw.ackReply f 0x00

/-- What the RX Engine does with the frame it has dequeued, by its type (R271). -/
def State.rxFrame (s : State) (f : Frame) : State :=
  if f.ty = 1 then s.resolve f
  else if f.ty = 0 then s.dispatch f
  else
    ({ s.mark .rxInconsistent with
        blk.engStatus := .internalInconsistency } : State).rxFinish

/-- One RX Engine step (R271). -/
def rxStep (s : State) : State :=
  if s.blk.engRem = 0 then s.rxFinish
  else
    match sel s.blk.rxq with
    | none => (s.mark .rxShort).rxFinish
    | some e =>
      ({ s.setRxq (withoutSel s.blk.rxq) with blk.engRem := s.blk.engRem - 1 } : State).rxFrame
        e.frame

/-- One step of the Engine (R270), where it has one. -/
def engineStep (s : State) : State :=
  match s.blk.engMode with
  | .idle => s
  | .rx => rxStep s
  | .tick => tickStep s

/-! ## Interrupt-side commands -/

/-- One received frame (R280): pushed with priority = message id, or dropped by a full queue, which
sets RX_OVERRUN. The second component counts the frames pushed. -/
def rxDeliver (p : State × Nat) (r : RxRecord) : State × Nat :=
  let f := recordFrame r
  if p.1.blk.rxq.length = p.1.blk.rxqCap.toNat then (p.1.mark .rxOverrun, p.2)
  else (p.1.setRxq (p.1.blk.rxq ++ [{ key := f.msgId, frame := f }]), p.2 + 1)

/-- RX_IRQ (R280): deliver every record in order, then raise one RX event with the number pushed. -/
def execRxIrq (rs : List RxRecord) (s : State) : Host.Outcome State Fault Refusal :=
  if rs.any (fun r => decide (r.dlc.toNat > 8)) then .next (s.raiseIsr .illegalCommand)
  else if s.blk.init = false ∨ s.blk.rxqInit = false then .next (s.raiseIsr .uninitialized)
  else
    let p := rs.foldl rxDeliver (s, 0)
    let n := BitVec.ofNat 16 p.2
    if p.2 > 0 then .next ((p.1.evRaise p.1.blk.rxEventId n).doneIsr .ok n)
    else .next (p.1.doneIsr .ok n)

/-- TX_READY_IRQ (R281): raise (tx_event_id, 0). -/
def execTxReadyIrq (s : State) : Host.Outcome State Fault Refusal :=
  if s.blk.init = false then .next (s.raiseIsr .uninitialized)
  else .next ((s.evRaise s.blk.txEventId 0).doneIsr .ok 0)

end Sys2Proof.Machine
end

