-- ==== Sys2Proof/Machine/Dispatch.lean ====
section
/-! DEFINITION. The meaning of every command of the opcode map (30_encoding.md R104): what one
command does once its port has taken it. Whether the port takes it is Turns.lean's. -/

namespace Sys2Proof.Machine

open Sys2Proof

def exec (i : Instr) (s : State) : Host.Outcome State Fault Refusal :=
  match i with
  -- identifier and frame codec
  | .idEncode ty msg src => Sys2Proof.Machine.execIdEncode ty msg src s
  | .idDecode w => Sys2Proof.Machine.execIdDecode w s
  | .packU8 ty msg src b0 b1 b2 b3 b4 b5 b6 b7 => Sys2Proof.Machine.execPackU8 ty msg src b0 b1 b2 b3 b4 b5 b6 b7 s
  | .packU16 ty msg src h0 h1 h2 h3 => Sys2Proof.Machine.execPackU16 ty msg src h0 h1 h2 h3 s
  | .packU32 ty msg src w0 w1 => Sys2Proof.Machine.execPackU32 ty msg src w0 w1 s
  | .packU64 ty msg src d => Sys2Proof.Machine.execPackU64 ty msg src d s
  -- bounded priority queue
  | .pqInit n k => Sys2Proof.Machine.execPqInit n k s
  | .pqPush prio f => Sys2Proof.Machine.execPqPush prio f s
  | .pqPop => Sys2Proof.Machine.execPqPop s
  | .pqPeek => Sys2Proof.Machine.execPqPeek s
  | .pqSize => Sys2Proof.Machine.execPqSize s
  -- dispatch table
  | .regInit c => Sys2Proof.Machine.execRegInit c s
  | .regDefault cb ctx => Sys2Proof.Machine.execRegDefault cb ctx s
  | .regAdd m cb ctx => Sys2Proof.Machine.execRegAdd m cb ctx s
  | .regLookup m => Sys2Proof.Machine.execRegLookup m s
  -- ACK tracker
  | .ackTick => Sys2Proof.Machine.execAckTick s
  -- RX/TX processing
  | .canInit dev rx tx fe => Sys2Proof.Machine.execCanInit dev rx tx fe s
  | .transmit f cb ctx => Sys2Proof.Machine.execTransmit f cb ctx s
  | .processEvent e d => Sys2Proof.Machine.execProcessEvent e d s
  | .handlerReturn st r => Sys2Proof.Machine.execHandlerReturn st r s
  -- control and status registers
  | .csrRead n => Sys2Proof.Machine.execCsrRead n s
  | .csrWrite n v => Sys2Proof.Machine.execCsrWrite n v s
  -- interrupt side
  | .rxIrq rs => Sys2Proof.Machine.execRxIrq rs s
  | .txReadyIrq => Sys2Proof.Machine.execTxReadyIrq s

end Sys2Proof.Machine
end

