-- ==== Sys2Proof/Machine/Turns.lean ====
section
/-! DEFINITION. Whose turn it is and what one turn does: each step is one atomic transition of one
agent (20_memory.md R86, R90), taken from the turns listed in the state. -/

namespace Sys2Proof.Machine

open Sys2Proof

/-- A port takes the words of one command: its meaning, or IllegalCommand where they are no command
(30_encoding.md R103, R126). -/
def runCommand (p : Port) (ws : List Word) (s : State) : Host.Outcome State Fault Refusal :=
  match decode p ws with
  | .ok i => exec i s
  | .error _ => .next (s.raiseOn p .illegalCommand)

/-- The turns of the Host agent, which has no step while it is owed a response (60_exceptions.md
R344). -/
def isHostTurn : Turn → Bool
  | .host _ => true
  | .isr _ => false
  | .engine => false
  | .process => true
  | .forward => true
  | .collaborator _ => false
  | .reset => false

/-- process(): the oldest event leaves the event queue for the host, which gets None from an empty
one (R352). -/
def State.processCall (s : State) : State :=
  { s with evq := s.evq.tail, taken := s.evq.head? }

/-- The PROCESS_EVENT command with an event's id and data (R262). -/
def eventWords (e : Event) : List Word := encode (.processEvent e.id e.data)

/-- What a turn does, once it has been taken off the list. -/
def takeTurn (t : Turn) (s : State) : Host.Outcome State Fault Refusal :=
  match t with
  | .host ws => runCommand .host ws s
  | .isr ws => runCommand .isr ws s
  | .engine => if s.blk.hostWaiting then .next (engineStep s) else .next s
  | .process => .next s.processCall
  | .forward =>
    match s.taken with
    | some e => runCommand .host (eventWords e) { s with taken := none }
    | none => .next s
  | .collaborator e => .next (s.evRaise e.id e.data)
  | .reset => .next (s.withBlk Block.reset)

/-- The turns to come: those listed, and once they are used up those of the cycle, so that the main
loop can run for ever (R360, R392; log entry 20). -/
def State.dueTurns (s : State) : List Turn :=
  match s.turns with
  | [] => s.turnCycle
  | t :: rest => t :: rest

/-- One transition. The next turn to come is taken; a Host turn waits, and the Engine moves, while
the host is owed a response; with no turn to come the Engine moves if it has a step, and otherwise
the block waits for commands (R270, R344, R380; log entry 6). -/
def nextTransition (s : State) : Host.Outcome State Fault Refusal :=
  match s.dueTurns with
  | [] => if s.blk.hostWaiting then .next (engineStep s) else .next s
  | t :: rest =>
    if isHostTurn t && s.blk.hostWaiting then .next (engineStep s)
    else takeTurn t { s with turns := rest }

/-- The turn in which an instruction given as a number arrives. -/
def tableTurn (nbits w : Nat) : Turn :=
  match tablePort nbits w with
  | .host => .host (tableWords nbits w)
  | .isr => .isr (tableWords nbits w)

/-- The instruction given as a number is the next turn, and its port is ready: if the host is owed a
response, the batch that owes it is put at its end (log entry 4). -/
def State.placeCommand (s : State) (nbits w : Nat) : State :=
  { s with turns := tableTurn nbits w :: s.turns,
           blk.engMode := if s.blk.hostWaiting then .idle else s.blk.engMode }

end Sys2Proof.Machine
end

