-- ==== Sys2Proof/Machine/Step.lean ====
section
/-! DEFINITION. The machine's step, and how a command is placed where the next step takes it. -/

namespace Sys2Proof.Machine

open Sys2Proof

/-- One step of the machine: one atomic transition of one agent (20_memory.md R86). -/
def step (s : State) : Host.Outcome State Fault Refusal := nextTransition s

/-- s with the instruction whose bits are w arriving as the very next turn on its own port. -/
def State.withFetchWord (s : State) (nbits w : Nat) : State := s.placeCommand nbits w

end Sys2Proof.Machine
end

