-- ==== Sys2Proof/Safety.lean ====
section
/-! DEFINITION. The terms claims are stated in: the invariant of a safe run, the launch and end of a
run (70_reset_and_hazards.md R386, R395), runs of the Engine and of several commands, and the
opcode table of spec/opcode_table.json as masks, with the reserved operand bits of R106. -/

namespace Sys2Proof.Machine

open Sys2Proof

/-! ## The invariant -/

/-- What every step keeps. Each field names the rule it comes from. -/
structure Inv (s : State) : Prop where
  /-- The parameters lie in R6's ranges. -/
  params : s.params.wf
  /-- R46. -/
  rxqBound : s.blk.rxq.length ≤ s.blk.rxqCap.toNat
  rxqCapBound : s.blk.rxqCap.toNat ≤ s.params.rxqMaxSlots
  rxqUninit : s.blk.rxqInit = false → s.blk.rxq = []
  /-- R47. -/
  txqBound : s.blk.txq.length ≤ s.params.txqCapacity
  txqValid : ∀ f ∈ s.blk.txq, validFrame f = true
  /-- R48, and R342's "an uninitialised table has no entries and no default". -/
  regBound : s.blk.reg.length ≤ s.blk.regCap.toNat
  regCapBound : s.blk.regCap.toNat ≤ s.params.regMaxEntries
  regIds : ∀ e ∈ s.blk.reg, e.msgId.toNat ≤ 63
  regUninit : s.blk.regInit = false → s.blk.reg = [] ∧ s.blk.regDefault = none
  /-- R50, R239 item 3. -/
  ackBound : s.blk.ack.length ≤ s.params.ackMaxPending
  /-- R352. -/
  evqBound : s.evq.length ≤ s.params.evqCapacity
  /-- R35, R260: a legal device id and three distinct event ids, once CAN_INIT has succeeded. -/
  identity : s.blk.init = true →
    s.blk.deviceId.toNat ≤ 15 ∧
      badEventIds s.blk.rxEventId s.blk.txEventId s.blk.faultEventId = false
  /-- R35: the sentinel until then. -/
  unset : s.blk.init = false →
    s.blk.deviceId = sentinel ∧ s.blk.rxEventId = sentinel ∧ s.blk.txEventId = sentinel ∧
      s.blk.faultEventId = sentinel
  /-- A batch runs only in an initialised block (R342). -/
  batchInit : s.blk.engMode ≠ .idle → s.blk.init = true
  /-- A callout is outstanding only inside a batch (R346). -/
  calloutInBatch : s.blk.engCallout ≠ .none → s.blk.engMode ≠ .idle
  /-- A handler is called only by RX processing (R275). -/
  handlerInRx : s.blk.engCallout = .handler → s.blk.engMode = .rx
  /-- Between transitions the batch's status is OK (R271: rx_finish puts it back). -/
  engStatusOk : s.blk.engStatus = .ok
  /-- Each mode keeps the other mode's progress registers at rest (R51, R238, R271). -/
  remInRx : s.blk.engMode ≠ .rx → s.blk.engRem = 0
  expiredInTick : s.blk.engMode ≠ .tick → s.blk.engExpired = [] ∧ s.blk.engCount = 0
  /-- The count of expiries delivered fits its 16 bits (R51). -/
  expiredBound : s.blk.engCount.toNat + s.blk.engExpired.length ≤ s.params.ackMaxPending
  /-- Nothing but an 11-bit identifier with its dlc ≤ 8 bytes ever reached the bus (R120, R353). -/
  busWellFormed : ∀ b ∈ s.busLog, b.wire.toNat < 2048 ∧ b.dlc.toNat ≤ 8 ∧
    b.bytes.length = b.dlc.toNat

/-! ## Runs -/

/-- The clean-entry record (R386). -/
def CleanEntry (s : State) : Prop :=
  s.blk.init = true ∧ s.blk.rxqInit = true ∧ s.blk.regInit = true ∧
  s.blk.status = 0 ∧ s.blk.rxq = [] ∧ s.blk.txq = [] ∧ s.blk.ack = [] ∧
  s.blk.engMode = .idle ∧ s.blk.engCallout = .none ∧
  s.blk.txFailCount = 0 ∧ s.blk.fsmState = .idle ∧ s.evq = []

/-- n steps in a row. -/
def runSteps : Nat → State → Option State
  | 0, s => some s
  | n + 1, s =>
    match step s with
    | .next t => runSteps n t
    | .fault _ => none
    | .refused _ => none

/-- Whether this step takes a command on the host port: one the Host agent issues, or the event it
forwards. -/
def hostCommandTaken (s : State) : Bool :=
  !s.blk.hostWaiting &&
    match s.dueTurns with
    | .host _ :: _ => true
    | .forward :: _ => s.taken.isSome
    | _ => false

/-- The Host agent has issued its last command (R395): no later step of the run takes one. DESIGN
CHOICE (log entry 21): R395 does not say whether a poll of the event queue keeps a run from being
over. process() is no command, and forward is one only while it holds an event, so a main loop that
goes on polling an empty event queue has issued its last command. -/
def HostDone (s : State) : Prop :=
  ∀ n t, runSteps n s = some t → hostCommandTaken t = false

/-- The end of a run (R395): the last command is issued and answered, no batch runs, the event queue
is empty. What HostDone counts as a command to come is the model's choice (log entry 21). -/
def RunOver (s : State) : Prop :=
  HostDone s ∧
  s.blk.engMode = .idle ∧ s.blk.engCallout = .none ∧ s.evq = []

/-- Stuck (R360): a callout is outstanding in every state of the run from here on. The host may go on
with its other turns, but never answers it, and no reset discards it (R381). -/
def StuckOnHost (s : State) : Prop :=
  ∀ n t, runSteps n s = some t → t.blk.engCallout ≠ .none

/-- The main loop that does nothing but drain the event queue, for ever, before a transport that
answers busy for ever (R360). -/
def DrainsBeforeBusyTransport (s : State) : Prop :=
  s.turns = [] ∧ s.turnCycle = [.process, .forward] ∧ s.answers = [] ∧ s.answerCycle = [.busy]

/-- n Engine steps in a row; the Engine has none once it is idle or has called out (R270). -/
def engineRun : Nat → State → State
  | 0, s => s
  | n + 1, s => if s.blk.hostWaiting then engineRun n (engineStep s) else s

/-- Commands one after another, each at the state the one before it left; none where one answers no
next state. -/
def execAll : List Instr → State → Option State
  | [], s => some s
  | i :: is, s =>
    match exec i s with
    | .next t => execAll is t
    | .fault _ => none
    | .refused _ => none

/-- The entries of a queue in the order that repeated pops serve them under PQ_TIE = Stable. -/
def drain : Nat → List QEntry → List QEntry
  | 0, _ => []
  | n + 1, xs =>
    match sel xs with
    | some e => e :: drain n (withoutSel xs)
    | none => []

/-- The kind field of a response's R0 (R110). -/
def respKind (ws : List Word) : Byte := (ws.headD 0).extractLsb' 24 8

/-- The status field of a response's R0 (R110). -/
def respStatus (ws : List Word) : Byte := (ws.headD 0).extractLsb' 16 8

/-- How many responses the block owes the host: one while a batch runs with no callout out (R51). -/
def owed (s : State) : Nat := if s.blk.hostWaiting then 1 else 0

/-! ## The opcode table as masks (spec/opcode_table.json, R105, R106) -/

/-- A row's "match" and "mask" for the header word. -/
def tableRow : Opcode → Word × Word
  | .idEncode => (0x10000000, 0xFF00FFFF)
  | .idDecode => (0x11000000, 0xFFFF0000)
  | .packU8 => (0x12000000, 0xFF00FFFF)
  | .packU16 => (0x13000000, 0xFF00FFFF)
  | .packU32 => (0x14000000, 0xFF00FFFF)
  | .packU64 => (0x15000000, 0xFF00FFFF)
  | .pqInit => (0x20000000, 0xFFFF0000)
  | .pqPush => (0x21000000, 0xFFFF0000)
  | .pqPop => (0x22000000, 0xFFFFFFFF)
  | .pqPeek => (0x23000000, 0xFFFFFFFF)
  | .pqSize => (0x24000000, 0xFFFFFFFF)
  | .regInit => (0x30000000, 0xFFFF0000)
  | .regDefault => (0x31000000, 0xFFFFFFFF)
  | .regAdd => (0x32000000, 0xFFFF0000)
  | .regLookup => (0x33000000, 0xFFFF0000)
  | .ackTick => (0x40000000, 0xFFFFFFFF)
  | .canInit => (0x50000000, 0xFFFF0000)
  | .transmit => (0x51000000, 0xFFFFFFFF)
  | .processEvent => (0x52000000, 0xFFFF0000)
  | .handlerReturn => (0x53000000, 0xFF000000)
  | .csrRead => (0x60000000, 0xFF00FFFF)
  | .csrWrite => (0x61000000, 0xFF00FFFF)
  | .rxIrq => (0x70000000, 0xFF00FFFF)
  | .txReadyIrq => (0x71000000, 0xFFFFFFFF)

/-- A header word fits a row of the opcode table. -/
def fitsRow (op : Opcode) (h : Word) : Prop := h &&& (tableRow op).2 = (tableRow op).1

/-- A row's port (R102). -/
def rowPort : Opcode → Port
  | .rxIrq => .isr
  | .txReadyIrq => .isr
  | .idEncode => .host
  | .idDecode => .host
  | .packU8 => .host
  | .packU16 => .host
  | .packU32 => .host
  | .packU64 => .host
  | .pqInit => .host
  | .pqPush => .host
  | .pqPop => .host
  | .pqPeek => .host
  | .pqSize => .host
  | .regInit => .host
  | .regDefault => .host
  | .regAdd => .host
  | .regLookup => .host
  | .ackTick => .host
  | .canInit => .host
  | .transmit => .host
  | .processEvent => .host
  | .handlerReturn => .host
  | .csrRead => .host
  | .csrWrite => .host

/-- A row's word count, header included (R105); only RX_IRQ's depends on the header. -/
def rowWords (op : Opcode) (h : Word) : Nat :=
  match op with
  | .idDecode => 1
  | .pqPop => 1
  | .pqPeek => 1
  | .pqSize => 1
  | .regInit => 1
  | .regLookup => 1
  | .ackTick => 1
  | .handlerReturn => 1
  | .csrRead => 1
  | .txReadyIrq => 1
  | .idEncode => 2
  | .pqInit => 2
  | .processEvent => 2
  | .csrWrite => 2
  | .regDefault => 3
  | .regAdd => 3
  | .canInit => 3
  | .packU32 => 4
  | .packU64 => 4
  | .pqPush => 5
  | .packU16 => 6
  | .transmit => 7
  | .packU8 => 10
  | .rxIrq => 1 + 3 * (h.toNat / 65536 % 256)

/-- The reserved bits of operand word W(j) (R106). -/
def reservedBits (op : Opcode) (j : Nat) : Word :=
  match op with
  | .packU8 => if j = 0 then 0 else 0xFFFFFF00
  | .packU16 => if j = 0 then 0 else 0xFFFF0000
  | .pqInit => 0xFFFF0000
  | .pqPush => if j = 3 then 0xFFFF0000 else 0
  | .canInit => if j = 1 then 0xFFFF0000 else 0
  | .transmit => if j = 3 then 0xFFFF0000 else 0
  | .processEvent => 0xFFFF0000
  | .rxIrq => if j % 3 = 0 then 0xFFF00000 else 0
  | .idEncode => 0
  | .idDecode => 0
  | .packU32 => 0
  | .packU64 => 0
  | .pqPop => 0
  | .pqPeek => 0
  | .pqSize => 0
  | .regInit => 0
  | .regDefault => 0
  | .regAdd => 0
  | .regLookup => 0
  | .ackTick => 0
  | .handlerReturn => 0
  | .csrRead => 0
  | .csrWrite => 0
  | .txReadyIrq => 0

/-- The words h, ops are a command of a row on a port: the header fits, the port and the word count
are the row's, and every reserved operand bit is 0 (R103's first five items, negated). -/
def IsCommand (op : Opcode) (p : Port) (h : Word) (ops : List Word) : Prop :=
  fitsRow op h ∧ rowPort op = p ∧ (h :: ops).length = rowWords op h ∧
  ∀ j w, ops[j]? = some w → w &&& reservedBits op j = 0

/-- The state after a port has answered IllegalCommand: the one DONE response and nothing else. -/
def illegalAnswer (p : Port) (s : State) : State :=
  match p with
  | .host => { s with hostOut := s.hostOut ++ [[0x00080000]] }
  | .isr => { s with isrOut := s.isrOut ++ [[0x00080000]] }

end Sys2Proof.Machine
end

