-- ==== Sys2Proof/Certificates/Slice0/Obligations.lean ====
section
/-! DEFINITION. The statements for the provers: what the numbered rules of spec/ say about commands,
Engine steps, whole steps and reset. Each docstring names the rule. -/

open Sys2Proof Sys2Proof.Machine

/-! ## Encoding -/

/-- Every command the interface can carry is read back from its words (R104, R106, R107). -/
def Obligations.DecodeInvertsEncode : Prop :=
  ∀ i : Instr, i.wf = true → decode i.port (encode i) = .ok i

/-- Every word sequence that decodes is the encoding of what it decodes to, on that command's port:
no bit is dropped and no command has two encodings (R103, R104, R106, R131). -/
def Obligations.EncodeInvertsDecode : Prop :=
  ∀ (p : Port) (ws : List Word) (i : Instr),
    decode p ws = .ok i → encode i = ws ∧ i.port = p ∧ i.wf = true

/-- A sequence of words decodes to a command of a row exactly where its header fits the row's match
and mask, the port and word count are the row's, and its reserved operand bits are 0; the word count
is read from the header alone. That an RX_IRQ with a record's dlc above 8 and a command with an
unassigned CSR number decode, and get IllegalCommand from their meanings, is the model's choice
of log entry 8 (R103 and R343 count both among the decode checks). -/
def Obligations.DecodingIsTheOpcodeTable : Prop :=
  (∀ (op : Opcode) (p : Port) (h : Word) (ops : List Word), IsCommand op p h ops →
    ∃ i, decode p (h :: ops) = .ok i ∧ i.opcode = op) ∧
  (∀ (p : Port) (h : Word) (ops : List Word) (i : Instr), decode p (h :: ops) = .ok i →
    IsCommand i.opcode p h ops)

/-- R103 and R102: a word sequence that is no command of any row on its port, an RX_IRQ with a record
whose dlc exceeds 8, and a defined opcode on the wrong port get one DONE response of status
IllegalCommand and have no other effect. -/
def Obligations.IllegalCommandHasNoEffect : Prop :=
  (∀ (p : Port) (h : Word) (ops : List Word) (s : State),
    (∀ op, ¬ IsCommand op p h ops) →
    runCommand p (h :: ops) s = .next (illegalAnswer p s)) ∧
  (∀ (rs : List RxRecord) (s : State), (∃ r ∈ rs, r.dlc.toNat > 8) →
    exec (.rxIrq rs) s = .next (illegalAnswer .isr s)) ∧
  (∀ (h : Word) (ops : List Word) (s : State),
    ((hdrOpc h = 0x70 ∨ hdrOpc h = 0x71) →
      runCommand .host (h :: ops) s = .next (illegalAnswer .host s)) ∧
    ((hdrOpc h ≠ 0x70 ∧ hdrOpc h ≠ 0x71) →
      runCommand .isr (h :: ops) s = .next (illegalAnswer .isr s)))

/-- R82: a port that carries words as bytes sends byte j of a word as bits 8j+7:8j, and decoding the
bytes is decoding the words. -/
def Obligations.BytesCarryWordsLittleEndian : Prop :=
  (∀ (w : Word) (j : Nat), j < 4 → (wordBytes w)[j]? = some (w.extractLsb' (8 * j) 8)) ∧
  (∀ ws : List Word, wordsOfBytes (ws.flatMap wordBytes) = some ws) ∧
  (∀ (p : Port) (ws : List Word), decodeBytes p (ws.flatMap wordBytes) = decode p ws)

/-- Words written out from R104 and R106, one for each family, decode to the commands they stand
for. -/
def Obligations.SpecWordsDecode : Prop :=
  decode .host [0x10000000#32, 0x00050001#32] = .ok (.idEncode 0 5 1) ∧
  decode .host [0x110007FF#32] = .ok (.idDecode 0x7FF) ∧
  decode .host [0x20000004#32, 0x00000005#32] = .ok (.pqInit 4 5) ∧
  decode .host [0x32000007#32, 0x00000A01#32, 0x000000C7#32] = .ok (.regAdd 7 0xA01 0xC7) ∧
  decode .host [0x40000000#32] = .ok .ackTick ∧
  decode .host [0x50000002#32, 0x00110010#32, 0x00000012#32] =
    .ok (.canInit 2 0x10 0x11 0x12) ∧
  decode .host [0x61050000#32, 0x00000080#32] = .ok (.csrWrite 5 0x80) ∧
  decode .isr [0x70010000#32, 0x000200E9#32, 0x0000BEEF#32, 0x00000000#32] =
    .ok (.rxIrq [{ wire := 0x0E9, dlc := 2, data := 0xBEEF }])

/-- R110's layout of R0, with R340's status codes: kind 0, the code and val16, then the payload. -/
def Obligations.DoneResponseLayout : Prop :=
  (∀ (st : Status) (v : Half) (ws : List Word), ∃ r0, doneWords st v ws = r0 :: ws ∧
    r0.toNat = st.code.toNat * 65536 + v.toNat) ∧
  Status.ok.code = 0x00 ∧ Status.invalidArgument.code = 0x01 ∧
  Status.resourceExhausted.code = 0x02 ∧ Status.notFound.code = 0x03 ∧
  Status.empty.code = 0x04 ∧ Status.internalInconsistency.code = 0x05 ∧
  Status.uninitialized.code = 0x06 ∧ Status.busy.code = 0x07 ∧
  Status.illegalCommand.code = 0x08 ∧ Status.noCallout.code = 0x09

/-! ## Steps -/

/-- A step runs the decoded command: what comes next on a ready port is executed at the state with
that turn taken off, and words that are no command get IllegalCommand. While the host is owed a
response every turn of the Host agent waits and the Engine moves (R344); an ISR command is taken in
every Engine state. With no turn to come the Engine moves while it has a step (R270), and otherwise
the block waits for commands, unchanged (R380). What is to come is what is listed, and then the cycle
(the lists are the model's own, log entries 5, 6 and 20). -/
def Obligations.StepRunsTheDecodedCommand : Prop :=
  (∀ (s : State) (ws : List Word) (rest : List Turn) (i : Instr),
    s.dueTurns = .host ws :: rest → s.blk.hostWaiting = false → decode .host ws = .ok i →
    step s = exec i { s with turns := rest }) ∧
  (∀ (s : State) (ws : List Word) (rest : List Turn) (i : Instr),
    s.dueTurns = .isr ws :: rest → decode .isr ws = .ok i →
    step s = exec i { s with turns := rest }) ∧
  (∀ (s : State) (ws : List Word) (rest : List Turn) (r : Reject),
    s.dueTurns = .host ws :: rest → s.blk.hostWaiting = false → decode .host ws = .error r →
    step s = .next (illegalAnswer .host { s with turns := rest })) ∧
  (∀ (s : State) (ws : List Word) (rest : List Turn) (r : Reject),
    s.dueTurns = .isr ws :: rest → decode .isr ws = .error r →
    step s = .next (illegalAnswer .isr { s with turns := rest })) ∧
  (∀ (s : State) (t : Turn) (rest : List Turn), s.dueTurns = t :: rest →
    ((∃ ws, t = .host ws) ∨ t = .process ∨ t = .forward) → s.blk.hostWaiting = true →
    step s = .next (engineStep s)) ∧
  (∀ s : State, s.dueTurns = [] →
    (s.blk.hostWaiting = true → step s = .next (engineStep s)) ∧
    (s.blk.hostWaiting = false → step s = .next s)) ∧
  (∀ s : State, (s.turns ≠ [] → s.dueTurns = s.turns) ∧
    (s.turns = [] → s.dueTurns = s.turnCycle))

/-- R360: the block never faults and never refuses; every step answers a next state. -/
def Obligations.StepNeverFaultsOrRefuses : Prop :=
  ∀ s : State, ∃ t, step s = .next t

/-- The Host agent's main loop (R352, R359): process() takes the oldest event, and forwarding it is
PROCESS_EVENT with its id and data. The two turns and the field between them are the model's form of
it (log entry 7). -/
def Obligations.HostDrainsEventsInOrder : Prop :=
  ∀ (s : State) (rest : List Turn), s.blk.hostWaiting = false →
    (∀ e es, s.dueTurns = .process :: rest → s.evq = e :: es →
      step s = .next { s with turns := rest, evq := es, taken := some e }) ∧
    (s.dueTurns = .process :: rest → s.evq = [] →
      step s = .next { s with turns := rest, taken := none }) ∧
    (∀ e, s.dueTurns = .forward :: rest → s.taken = some e →
      step s = exec (.processEvent e.id e.data) { s with turns := rest, taken := none })

/-! ## Codec -/

/-- R140 and R141: ID_ENCODE answers (msg << 5) | (type << 4) | src, and InvalidArgument for a field
out of range; ID_DECODE answers {msg, src} and the type for every w, ignoring bits 15:11. No other
component changes. -/
def Obligations.IdEncodeAndDecodeResult : Prop :=
  (∀ (ty : Byte) (msg src : Half) (s : State),
    encode (.idEncode ty msg src) = [0x10#8 ++ ty ++ 0#16, msg ++ src] ∧
    ((src.toNat > 15 ∨ msg.toNat > 63 ∨ ty.toNat > 1) →
      exec (.idEncode ty msg src) s = .next (s.doneHost .invalidArgument 0 [])) ∧
    (src.toNat ≤ 15 → msg.toNat ≤ 63 → ty.toNat ≤ 1 →
      exec (.idEncode ty msg src) s =
        .next (s.doneHost .ok
          (BitVec.ofNat 16 (msg.toNat * 32 + ty.toNat * 16 + src.toNat)) []))) ∧
  (∀ (w : Half) (s : State),
    encode (.idDecode w) = [0x11#8 ++ 0#8 ++ w] ∧
    exec (.idDecode w) s =
      .next (s.doneHost .ok 0
        [BitVec.ofNat 32 (w.toNat / 32 % 64 * 65536 + w.toNat % 16),
         BitVec.ofNat 32 (w.toNat / 16 % 2)]))

/-- R142: encode and decode of the wire identifier are inverse on the valid triples and on the wire
ids 0x000..0x7FF, and the encode is a bijection between them. -/
def Obligations.WireIdRoundTrip : Prop :=
  (∀ (ty : Byte) (msg src : Half), src.toNat ≤ 15 → msg.toNat ≤ 63 → ty.toNat ≤ 1 →
    wireSource (wireOf ty msg src) = src ∧ wireType (wireOf ty msg src) = ty ∧
    wireMsg (wireOf ty msg src) = msg ∧ (wireOf ty msg src).toNat ≤ 0x7FF) ∧
  (∀ w : Half, w.extractLsb' 11 5 = 0 → wireOf (wireType w) (wireMsg w) (wireSource w) = w) ∧
  (∀ w : Half, w.toNat ≤ 0x7FF → ∃! t : Byte × Half × Half,
    t.1.toNat ≤ 1 ∧ t.2.1.toNat ≤ 63 ∧ t.2.2.toNat ≤ 15 ∧ wireOf t.1 t.2.1 t.2.2 = w)

/-- R143: mode 0 is 8 for a zero payload, else 8 - b, or 7 - b where the lowest set bit is bit 7 of
the lowest non-zero byte b; mode 1 is 0 for a zero payload, else 1 plus the highest non-zero byte;
mode 0 yields 0 only for 1 << 63. -/
def Obligations.DerivedLength : Prop :=
  dlcOf 0 false = 8 ∧ dlcOf 0 true = 0 ∧
  (∀ (data : BitVec 64) (b t : Nat), b < 8 → t < 8 → data.getLsbD (8 * b + t) = true →
    (∀ k, k < 8 * b + t → data.getLsbD k = false) →
    dlcOf data false = BitVec.ofNat 8 (if t = 7 then 7 - b else 8 - b)) ∧
  (∀ (data : BitVec 64) (b t : Nat), b < 8 → t < 8 → data.getLsbD (8 * b + t) = true →
    (∀ k, 8 * b + t < k → data.getLsbD k = false) →
    dlcOf data true = BitVec.ofNat 8 (b + 1)) ∧
  (∀ data : BitVec 64, dlcOf data false = 0 ↔ data = 1#64 <<< 63) ∧
  (∀ data : BitVec 64, dlcOf data true = 0 ↔ data = 0) ∧
  (∀ (data : BitVec 64) (mode : Bool), (dlcOf data mode).toNat ≤ 8)

/-- R145 to R149: each packer answers the words F0..F3 of a frame that holds the ids and the type as
given, the derived length in the current mode, and the payload whose fields are the operands; no
state changes. -/
def Obligations.PackersBuildTheFrame : Prop :=
  (∀ (ty : Byte) (msg src : Half) (b0 b1 b2 b3 b4 b5 b6 b7 : Byte) (s : State),
    ∃ d : BitVec 64,
      encode (.packU8 ty msg src b0 b1 b2 b3 b4 b5 b6 b7) =
        [0x12#8 ++ ty ++ 0#16, msg ++ src, 0#24 ++ b0, 0#24 ++ b1, 0#24 ++ b2, 0#24 ++ b3,
         0#24 ++ b4, 0#24 ++ b5, 0#24 ++ b6, 0#24 ++ b7] ∧
      (∀ i : Fin 8, u8Field d i = [b0, b1, b2, b3, b4, b5, b6, b7][i]) ∧
      exec (.packU8 ty msg src b0 b1 b2 b3 b4 b5 b6 b7) s =
        .next (s.doneHost .ok 0 [d.extractLsb' 0 32, d.extractLsb' 32 32, msg ++ src,
          0#16 ++ dlcOf d s.blk.dlcMode ++ ty])) ∧
  (∀ (ty : Byte) (msg src : Half) (h0 h1 h2 h3 : Half) (s : State),
    ∃ d : BitVec 64,
      encode (.packU16 ty msg src h0 h1 h2 h3) =
        [0x13#8 ++ ty ++ 0#16, msg ++ src, 0#16 ++ h0, 0#16 ++ h1, 0#16 ++ h2, 0#16 ++ h3] ∧
      (∀ i : Fin 4, u16Field d i = [h0, h1, h2, h3][i]) ∧
      exec (.packU16 ty msg src h0 h1 h2 h3) s =
        .next (s.doneHost .ok 0 [d.extractLsb' 0 32, d.extractLsb' 32 32, msg ++ src,
          0#16 ++ dlcOf d s.blk.dlcMode ++ ty])) ∧
  (∀ (ty : Byte) (msg src : Half) (w0 w1 : Word) (s : State),
    ∃ d : BitVec 64,
      encode (.packU32 ty msg src w0 w1) = [0x14#8 ++ ty ++ 0#16, msg ++ src, w0, w1] ∧
      u32Field d 0 = w0 ∧ u32Field d 1 = w1 ∧
      exec (.packU32 ty msg src w0 w1) s =
        .next (s.doneHost .ok 0 [w0, w1, msg ++ src, 0#16 ++ dlcOf d s.blk.dlcMode ++ ty])) ∧
  (∀ (ty : Byte) (msg src : Half) (d : BitVec 64) (s : State),
    encode (.packU64 ty msg src d) =
      [0x15#8 ++ ty ++ 0#16, msg ++ src, d.extractLsb' 0 32, d.extractLsb' 32 32] ∧
    exec (.packU64 ty msg src d) s =
      .next (s.doneHost .ok 0 [d.extractLsb' 0 32, d.extractLsb' 32 32, msg ++ src,
        0#16 ++ dlcOf d s.blk.dlcMode ++ ty]))

/-- R80: wider payload views are assembled with the lower-numbered byte in the low bits, and bus
byte i is u8 field i for i < dlc. -/
def Obligations.PayloadViewsAgree : Prop :=
  (∀ (d : BitVec 64) (i : Nat), i < 8 → u8Field d i = d.extractLsb' (8 * i) 8) ∧
  (∀ (d : BitVec 64) (i : Nat), i < 4 →
    u16Field d i = u8Field d (2 * i + 1) ++ u8Field d (2 * i)) ∧
  (∀ (d : BitVec 64) (i : Nat), i < 2 →
    u32Field d i =
      u8Field d (4 * i + 3) ++ u8Field d (4 * i + 2) ++ u8Field d (4 * i + 1) ++
        u8Field d (4 * i)) ∧
  (∀ (f : Frame) (i : Nat), i < f.dlc.toNat →
    (busFrame f).bytes[i]? = some (u8Field f.data i)) ∧
  (∀ f : Frame, (busFrame f).bytes.length = f.dlc.toNat)

/-! ## Priority queue -/

/-- R170: PQ_INIT sizes and empties the queue; it refuses K ≠ N + 1 and N > RXQ_MAX_SLOTS, and is
Busy while a callout is outstanding. -/
def Obligations.PqInitResult : Prop :=
  ∀ (n k : Half) (s : State),
    encode (.pqInit n k) = [0x20#8 ++ 0#8 ++ n, 0#16 ++ k] ∧
    (s.blk.engCallout ≠ .none → exec (.pqInit n k) s = .next (s.doneHost .busy 0 [])) ∧
    (s.blk.engCallout = .none → (k.toNat ≠ n.toNat + 1 ∨ n.toNat > s.params.rxqMaxSlots) →
      exec (.pqInit n k) s = .next (s.doneHost .invalidArgument 0 [])) ∧
    (s.blk.engCallout = .none → k.toNat = n.toNat + 1 → n.toNat ≤ s.params.rxqMaxSlots →
      exec (.pqInit n k) s =
        .next (({ s with blk.rxqCap := n, blk.rxq := [], blk.rxqInit := true } :
          State).doneHost .ok 0 []))

/-- R171: PQ_PUSH appends the frame as given with the host's key, reordered only by retie; a full
queue is ResourceExhausted. The draw counter is the model's own (log entry 3): nothing is said of
it here. -/
def Obligations.PqPushResult : Prop :=
  ∀ (prio : Half) (f : Frame) (s : State),
    encode (.pqPush prio f) =
      [0x21#8 ++ 0#8 ++ prio, f.data.extractLsb' 0 32, f.data.extractLsb' 32 32,
       f.msgId ++ f.sourceId, 0#16 ++ f.dlc ++ f.ty] ∧
    (s.blk.rxqInit = false →
      exec (.pqPush prio f) s = .next (s.doneHost .uninitialized 0 [])) ∧
    (s.blk.rxqInit = true → s.blk.rxq.length = s.blk.rxqCap.toNat →
      exec (.pqPush prio f) s = .next (s.doneHost .resourceExhausted 0 [])) ∧
    (s.blk.rxqInit = true → s.blk.rxq.length ≠ s.blk.rxqCap.toNat →
      ∃ xs n, xs.Perm (s.blk.rxq ++ [{ key := prio, frame := f }]) ∧
        (s.params.pqTie = .stable → xs = s.blk.rxq ++ [{ key := prio, frame := f }]) ∧
        exec (.pqPush prio f) s =
          .next (({ s with blk.rxq := xs, draws := n } : State).doneHost .ok 0 []))

/-- R173 and R174: PQ_POP answers the first entry of least key, its key in val16, and removes exactly
it; PQ_PEEK answers the same entry and changes nothing; an empty queue answers Empty. The draw
counter is the model's own (log entry 3): nothing is said of it here. -/
def Obligations.PqPopAndPeekResult : Prop :=
  ∀ s : State,
    encode .pqPop = [0x22000000#32] ∧ encode .pqPeek = [0x23000000#32] ∧
    (s.blk.rxqInit = false →
      exec .pqPop s = .next (s.doneHost .uninitialized 0 []) ∧
      exec .pqPeek s = .next (s.doneHost .uninitialized 0 [])) ∧
    (s.blk.rxqInit = true → s.blk.rxq = [] →
      exec .pqPop s = .next (s.doneHost .empty 0 []) ∧
      exec .pqPeek s = .next (s.doneHost .empty 0 [])) ∧
    (s.blk.rxqInit = true → s.blk.rxq ≠ [] →
      ∃ l e r xs ws n, s.blk.rxq = l ++ e :: r ∧
        (∀ x ∈ l, e.key.toNat < x.key.toNat) ∧ (∀ x ∈ r, e.key.toNat ≤ x.key.toNat) ∧
        xs.Perm (l ++ r) ∧ (s.params.pqTie = .stable → xs = l ++ r) ∧
        ws = [e.frame.data.extractLsb' 0 32, e.frame.data.extractLsb' 32 32,
              e.frame.msgId ++ e.frame.sourceId, 0#16 ++ e.frame.dlc ++ e.frame.ty] ∧
        exec .pqPop s =
          .next (({ s with blk.rxq := xs, draws := n } : State).doneHost .ok e.key ws) ∧
        exec .pqPeek s = .next (s.doneHost .ok e.key ws))

/-- R175: PQ_SIZE answers the number of queued entries and changes nothing. -/
def Obligations.PqSizeResult : Prop :=
  ∀ s : State,
    encode .pqSize = [0x24000000#32] ∧
    (s.blk.rxqInit = false → exec .pqSize s = .next (s.doneHost .uninitialized 0 [])) ∧
    (s.blk.rxqInit = true →
      exec .pqSize s = .next (s.doneHost .ok (BitVec.ofNat 16 s.blk.rxq.length) []))

/-- R172 under PQ_TIE = Stable: repeated pops serve every entry once, in ascending key order, and
first in first out within a key. -/
def Obligations.StableServiceOrder : Prop :=
  ∀ xs : List QEntry,
    (drain xs.length xs).Perm xs ∧
    (drain xs.length xs).Pairwise (fun a b => a.key.toNat ≤ b.key.toNat) ∧
    ∀ k : Half, (drain xs.length xs).filter (fun e => e.key = k) =
      xs.filter (fun e => e.key = k)

/-- R176 item 1, for a queue with room for exactly the frames pushed: every push answers OK, the
next is ResourceExhausted, and after one pop it succeeds. -/
def Obligations.QueueHoldsExactlyItsCapacity : Prop :=
  ∀ (s : State) (ps : List (Half × Frame)) (p : Half × Frame),
    s.blk.rxqInit = true → ps ≠ [] →
    s.blk.rxq.length + ps.length = s.blk.rxqCap.toNat →
    ∃ t u v : State,
      execAll (ps.map fun q => .pqPush q.1 q.2) s = some t ∧
      t.hostOut = s.hostOut ++ List.replicate ps.length [0x00000000#32] ∧
      exec (.pqPush p.1 p.2) t = .next (t.doneHost .resourceExhausted 0 []) ∧
      exec .pqPop t = .next u ∧ exec (.pqPush p.1 p.2) u = .next v ∧
      v.hostOut = u.hostOut ++ [[0x00000000#32]] ∧
      v.blk.rxq.length = s.blk.rxqCap.toNat

/-! ## Dispatch table -/

/-- R200 and R201: REG_INIT sets the capacity and removes every handler and the default; REG_DEFAULT
replaces the default handler and never fails in an initialised table. -/
def Obligations.RegInitAndDefaultResult : Prop :=
  (∀ (c : Half) (s : State),
    encode (.regInit c) = [0x30#8 ++ 0#8 ++ c] ∧
    (s.blk.engCallout ≠ .none → exec (.regInit c) s = .next (s.doneHost .busy 0 [])) ∧
    (s.blk.engCallout = .none → c.toNat > s.params.regMaxEntries →
      exec (.regInit c) s = .next (s.doneHost .invalidArgument 0 [])) ∧
    (s.blk.engCallout = .none → c.toNat ≤ s.params.regMaxEntries →
      exec (.regInit c) s =
        .next (({ s with blk.regCap := c, blk.reg := [], blk.regDefault := none,
                         blk.regInit := true } : State).doneHost .ok 0 []))) ∧
  (∀ (cb ctx : Word) (s : State),
    encode (.regDefault cb ctx) = [0x31000000#32, cb, ctx] ∧
    (s.blk.regInit = false →
      exec (.regDefault cb ctx) s = .next (s.doneHost .uninitialized 0 [])) ∧
    (s.blk.regInit = true →
      exec (.regDefault cb ctx) s =
        .next (({ s with blk.regDefault := some { cb := cb, ctx := ctx } } : State).doneHost
          .ok 0 [])))

/-- R202: REG_ADD appends an entry; an id above 63 is InvalidArgument, before the full table that is
ResourceExhausted. -/
def Obligations.RegAddResult : Prop :=
  ∀ (m : Half) (cb ctx : Word) (s : State),
    encode (.regAdd m cb ctx) = [0x32#8 ++ 0#8 ++ m, cb, ctx] ∧
    (s.blk.regInit = false →
      exec (.regAdd m cb ctx) s = .next (s.doneHost .uninitialized 0 [])) ∧
    (s.blk.regInit = true → m.toNat > 63 →
      exec (.regAdd m cb ctx) s = .next (s.doneHost .invalidArgument 0 [])) ∧
    (s.blk.regInit = true → m.toNat ≤ 63 → s.blk.reg.length = s.blk.regCap.toNat →
      exec (.regAdd m cb ctx) s = .next (s.doneHost .resourceExhausted 0 [])) ∧
    (s.blk.regInit = true → m.toNat ≤ 63 → s.blk.reg.length ≠ s.blk.regCap.toNat →
      exec (.regAdd m cb ctx) s =
        .next (({ s with blk.reg := s.blk.reg ++ [{ msgId := m, cb := cb, ctx := ctx }] } :
          State).doneHost .ok 0 []))

/-- R204 with R203: REG_LOOKUP answers NotFound where no entry has the id, and otherwise one of the
entries that have it, under Newest the last registered; the block's state never changes. The draw
counter is the model's own (log entry 3): nothing is said of it here. -/
def Obligations.RegLookupResult : Prop :=
  ∀ (m : Half) (s : State),
    encode (.regLookup m) = [0x33#8 ++ 0#8 ++ m] ∧
    (s.blk.regInit = false →
      exec (.regLookup m) s = .next (s.doneHost .uninitialized 0 [])) ∧
    (s.blk.regInit = true → (∀ e ∈ s.blk.reg, e.msgId ≠ m) →
      ∃ n, exec (.regLookup m) s =
        .next (({ s with draws := n } : State).doneHost .notFound 0 [])) ∧
    (s.blk.regInit = true → (∃ e ∈ s.blk.reg, e.msgId = m) →
      ∃ l e r n, s.blk.reg = l ++ e :: r ∧ e.msgId = m ∧
        (s.params.dupLookup = .newest → ∀ x ∈ r, x.msgId ≠ m) ∧
        exec (.regLookup m) s =
          .next (({ s with draws := n } : State).doneHost .ok 0 [e.cb, e.ctx]))

/-- R206 and R203: where the ids are distinct, both settings of DUP_LOOKUP find each entry, in
whatever order they were registered. -/
def Obligations.DistinctIdsAreFound : Prop :=
  ∀ (dup : DupLookup) (draw : Nat) (reg : List RegEntry),
    reg.Pairwise (fun a b => a.msgId ≠ b.msgId) →
    ∀ e ∈ reg, findReg dup draw reg e.msgId = some e

/-! ## ACK tracker -/

/-- R230 and R234: a frame is critical iff it is Data, its id is at most 63 and its mask bit is set;
the ACK-reply step queues {device id, same id, Ack, dlc 1, status} and raises the TX event, or sets
ACK_DROP where the FIFO is full, and does nothing for a frame that is not critical. -/
def Obligations.AckReplyForCriticalFrames : Prop :=
  (∀ (b : Block) (f : Frame), critical b f = true ↔
    f.ty = 0 ∧ f.msgId.toNat ≤ 63 ∧ b.critMask.getLsbD f.msgId.toNat = true) ∧
  (∀ (s : State) (f : Frame) (st : Byte),
    (critical s.blk f = false → s.ackReply f st = s) ∧
    (critical s.blk f = true → s.blk.txq.length = s.params.txqCapacity →
      s.ackReply f st =
        { s with blk.status := s.blk.status ||| 0b001000#6 }) ∧
    (critical s.blk f = true → s.blk.txq.length ≠ s.params.txqCapacity →
      s.ackReply f st =
        { s with
          blk.txq := s.blk.txq ++ [{ sourceId := s.blk.deviceId, msgId := f.msgId, ty := 1,
                                     dlc := 1, data := st.setWidth 64 }],
          evq := if s.evq.length < s.params.evqCapacity
            then s.evq ++ [{ id := s.blk.txEventId, data := 0 }] else s.evq }))

/-- R235: an Ack frame resolves the oldest pending entry with its message id, in the transition that
emits its callout; an unmatched one only sets ACK_NOMATCH. -/
def Obligations.AckResolvesOldestRequest : Prop :=
  ∀ (s : State) (f : Frame),
    ((∀ e ∈ s.blk.ack, e.msgId.toNat ≠ f.msgId.toNat) →
      s.resolve f = { s with blk.status := s.blk.status ||| 0b100000#6 }) ∧
    (∀ l e r, s.blk.ack = l ++ e :: r → e.msgId.toNat = f.msgId.toNat →
      (∀ x ∈ l, x.msgId.toNat ≠ f.msgId.toNat) →
      s.resolve f =
        { s with
          blk.ack := l ++ r, blk.engCallout := .ackCb,
          hostOut := s.hostOut ++ [[0x02000000#32, e.cb, e.ctx, f.msgId ++ f.sourceId,
            0#16 ++ 0#8 ++ f.data.extractLsb' 0 8]] })

/-- R237: ACK_TICK removes every entry whose countdown is 1 and gives them to the tick batch in
creation order, decrements countdowns of 2 or more, keeps 0; with nothing to expire it answers
DONE with 0. -/
def Obligations.AckTickResult : Prop :=
  ∀ s : State,
    encode .ackTick = [0x40000000#32] ∧
    (s.blk.engCallout ≠ .none → exec .ackTick s = .next (s.doneHost .busy 0 [])) ∧
    (s.blk.engCallout = .none → s.blk.init = false →
      exec .ackTick s = .next (s.doneHost .uninitialized 0 [])) ∧
    (s.blk.engCallout = .none → s.blk.init = true →
      ∃ kept, kept = s.blk.ack.filterMap (fun e =>
          if e.countdown = 1 then none
          else if e.countdown = 0 then some e
          else some { e with countdown := e.countdown - 1 }) ∧
        ((∀ e ∈ s.blk.ack, e.countdown ≠ 1) →
          exec .ackTick s = .next (({ s with blk.ack := kept } : State).doneHost .ok 0 [])) ∧
        ((∃ e ∈ s.blk.ack, e.countdown = 1) →
          exec .ackTick s =
            .next { s with blk.ack := kept, blk.engMode := .tick, blk.engCount := 0,
                           blk.engExpired := s.blk.ack.filter (fun e => e.countdown = 1) }))

/-- R238 and R236: a tick Engine step delivers the next expired entry, with acker 0xFFFF, reason
TimedOut and status 0xFF, or ends the batch with the number delivered. -/
def Obligations.TickStepDeliversExpiry : Prop :=
  ∀ s : State, s.blk.engMode = .tick → s.blk.engCallout = .none →
    (s.blk.engExpired = [] →
      engineStep s =
        ({ s with blk.engMode := .idle, blk.engCount := 0 } : State).doneHost .ok
          s.blk.engCount []) ∧
    (∀ e rest, s.blk.engExpired = e :: rest →
      engineStep s =
        { s with
          blk.engExpired := rest, blk.engCount := s.blk.engCount + 1, blk.engCallout := .ackCb,
          hostOut := s.hostOut ++ [[0x02000000#32, e.cb, e.ctx,
            e.msgId.setWidth 16 ++ 0xFFFF#16, 0x000001FF#32]] })

/-- R239 item 1: an Engine step takes at most one pending or expired entry, and exactly then emits
one CALLOUT_ACK with that entry's callback token and context. -/
def Obligations.RequestDeliveredAtMostOnce : Prop :=
  ∀ s : State, s.blk.hostWaiting = true →
    ((engineStep s).blk.ack = s.blk.ack ∧ (engineStep s).blk.engExpired = s.blk.engExpired ∧
      ∀ r, (engineStep s).hostOut = s.hostOut ++ [r] → respKind r ≠ 0x02) ∨
    ∃ e c3 c4,
      ((s.blk.ack.Perm (e :: (engineStep s).blk.ack) ∧
          (engineStep s).blk.engExpired = s.blk.engExpired) ∨
        ((engineStep s).blk.ack = s.blk.ack ∧
          s.blk.engExpired = e :: (engineStep s).blk.engExpired)) ∧
      (engineStep s).hostOut = s.hostOut ++ [[0x02000000#32, e.cb, e.ctx, c3, c4]]

/-! ## RX/TX processing -/

/-- R260: CAN_INIT sets the identity registers, empties the TX FIFO and the pending-ack table and
leaves everything else; it refuses a device id above 15, the sentinel and equal event ids. -/
def Obligations.CanInitResult : Prop :=
  ∀ (dev rx tx fe : Half) (s : State),
    encode (.canInit dev rx tx fe) = [0x50#8 ++ 0#8 ++ dev, tx ++ rx, 0#16 ++ fe] ∧
    (s.blk.engCallout ≠ .none → exec (.canInit dev rx tx fe) s = .next (s.doneHost .busy 0 [])) ∧
    (s.blk.engCallout = .none →
      (dev.toNat > 15 ∨ rx = 0xFFFF ∨ tx = 0xFFFF ∨ fe = 0xFFFF ∨ rx = tx ∨ rx = fe ∨ tx = fe) →
      exec (.canInit dev rx tx fe) s = .next (s.doneHost .invalidArgument 0 [])) ∧
    (s.blk.engCallout = .none → dev.toNat ≤ 15 → rx ≠ 0xFFFF → tx ≠ 0xFFFF → fe ≠ 0xFFFF →
      rx ≠ tx → rx ≠ fe → tx ≠ fe →
      exec (.canInit dev rx tx fe) s =
        .next (({ s with blk.deviceId := dev, blk.rxEventId := rx, blk.txEventId := tx,
                         blk.faultEventId := fe, blk.txq := [], blk.ack := [],
                         blk.fsmState := .idle, blk.txFailCount := 0, blk.init := true } :
          State).doneHost .ok 0 []))

/-- R261 with R265 and R231: TRANSMIT appends the frame to the TX FIFO, raises the TX event and, for
a critical frame, opens a pending entry with the current ACK_TIMEOUT; it refuses a frame that is
not valid, a full pending-ack table (critical frames) and a full FIFO, with no effect. -/
def Obligations.TransmitResult : Prop :=
  ∀ (f : Frame) (cb ctx : Word) (s : State),
    encode (.transmit f cb ctx) =
      [0x51000000#32, f.data.extractLsb' 0 32, f.data.extractLsb' 32 32,
       f.msgId ++ f.sourceId, 0#16 ++ f.dlc ++ f.ty, cb, ctx] ∧
    (s.blk.init = false →
      exec (.transmit f cb ctx) s = .next (s.doneHost .uninitialized 0 [])) ∧
    (s.blk.init = true →
      (f.sourceId.toNat > 15 ∨ f.msgId.toNat > 63 ∨ f.ty.toNat > 1 ∨ f.dlc.toNat > 8) →
      exec (.transmit f cb ctx) s = .next (s.doneHost .invalidArgument 0 [])) ∧
    (s.blk.init = true → validFrame f = true →
      ((critical s.blk f = true ∧ s.blk.ack.length = s.params.ackMaxPending) ∨
        s.blk.txq.length = s.params.txqCapacity) →
      exec (.transmit f cb ctx) s = .next (s.doneHost .resourceExhausted 0 [])) ∧
    (s.blk.init = true → validFrame f = true →
      (critical s.blk f = true → s.blk.ack.length ≠ s.params.ackMaxPending) →
      s.blk.txq.length ≠ s.params.txqCapacity →
      exec (.transmit f cb ctx) s =
        .next (({ s with
          blk.txq := s.blk.txq ++ [f],
          blk.ack := if critical s.blk f = true
            then s.blk.ack ++ [{ msgId := f.msgId.setWidth 6, cb := cb, ctx := ctx,
                                 countdown := s.blk.ackTimeout }]
            else s.blk.ack,
          evq := if s.evq.length < s.params.evqCapacity
            then s.evq ++ [{ id := s.blk.txEventId, data := 0 }] else s.evq } :
          State).doneHost .ok 0 []))

/-- R262: an RX event begins a batch of its count, with no response yet; an id that is neither the
RX nor the TX event's is unhandled and changes nothing; Busy and Uninitialized come first. -/
def Obligations.ProcessEventResult : Prop :=
  ∀ (e d : Half) (s : State),
    encode (.processEvent e d) = [0x52#8 ++ 0#8 ++ e, 0#16 ++ d] ∧
    (s.blk.engCallout ≠ .none → exec (.processEvent e d) s = .next (s.doneHost .busy 0 [])) ∧
    (s.blk.engCallout = .none → s.blk.init = false →
      exec (.processEvent e d) s = .next (s.doneHost .uninitialized 0 [])) ∧
    (s.blk.engCallout = .none → s.blk.init = true → e = s.blk.rxEventId →
      exec (.processEvent e d) s =
        .next { s with blk.fsmState := .handlingRx, blk.engMode := .rx, blk.engRem := d,
                       blk.engStatus := .ok }) ∧
    (s.blk.engCallout = .none → s.blk.init = true → e ≠ s.blk.rxEventId →
      e ≠ s.blk.txEventId →
      exec (.processEvent e d) s = .next (s.doneHost .ok 0 []))

/-- R266: a TX event makes one attempt for the head of the FIFO with its wire id and bytes: ok pops
it and clears the fail count; busy leaves it there, counts up to 0xFFFF, and re-raises the TX event
if the limit is 0 or not reached, else sets TX_STALL. An empty FIFO makes no attempt. The lists of
answers and the draw counter are the model's own (log entries 3, 9 and 20). -/
def Obligations.TxEventMakesOneAttempt : Prop :=
  ∀ (d : Half) (s : State), s.blk.engCallout = .none → s.blk.init = true →
    s.blk.txEventId ≠ s.blk.rxEventId →
    (s.blk.txq = [] →
      exec (.processEvent s.blk.txEventId d) s =
        .next (({ s with blk.fsmState := .handlingTx } : State).doneHost .ok 1 [])) ∧
    (∀ f rest, s.blk.txq = f :: rest → s.nextAnswer = .ok →
      exec (.processEvent s.blk.txEventId d) s =
        .next (({ s with
          blk.fsmState := .handlingTx, blk.txq := rest, blk.txFailCount := 0,
          busLog := s.busLog ++ [{ wire := wireOf f.ty f.msgId f.sourceId, dlc := f.dlc,
                                   bytes := (List.range f.dlc.toNat).map (u8Field f.data) }],
          answers := s.dueAnswers.tail, draws := s.draws + 1 } : State).doneHost .ok 1 [])) ∧
    (∀ f rest n, s.blk.txq = f :: rest → s.nextAnswer = .busy →
      n = min (s.blk.txFailCount.toNat + 1) 0xFFFF →
      (s.blk.txRetryLimit = 0 ∨ n < s.blk.txRetryLimit.toNat) →
      exec (.processEvent s.blk.txEventId d) s =
        .next (({ s with
          blk.fsmState := .handlingTx, blk.txFailCount := BitVec.ofNat 16 n,
          evq := if s.evq.length < s.params.evqCapacity
            then s.evq ++ [{ id := s.blk.txEventId, data := 0 }] else s.evq,
          answers := s.dueAnswers.tail, draws := s.draws + 1 } : State).doneHost .ok 1 [])) ∧
    (∀ f rest n, s.blk.txq = f :: rest → s.nextAnswer = .busy →
      n = min (s.blk.txFailCount.toNat + 1) 0xFFFF →
      s.blk.txRetryLimit ≠ 0 → s.blk.txRetryLimit.toNat ≤ n →
      exec (.processEvent s.blk.txEventId d) s =
        .next (({ s with
          blk.fsmState := .handlingTx, blk.txFailCount := BitVec.ofNat 16 n,
          blk.status := s.blk.status ||| 0b010000#6,
          answers := s.dueAnswers.tail, draws := s.draws + 1 } : State).doneHost .ok 1 []))

/-- R263 and R345: HANDLER_RETURN with no callout outstanding is NoCallout with no effect; otherwise
it ends the callout, after a handler callout with the ACK-reply step for
eng_cur and the returned status; `result` is ignored and no response is emitted yet. -/
def Obligations.HandlerReturnResult : Prop :=
  ∀ (st : Byte) (r : Half) (s : State),
    encode (.handlerReturn st r) = [0x53#8 ++ st ++ r] ∧
    (s.blk.engCallout = .none →
      exec (.handlerReturn st r) s = .next (s.doneHost .noCallout 0 [])) ∧
    (s.blk.engCallout = .handler →
      exec (.handlerReturn st r) s =
        .next (({ s with blk.engCallout := .none } : State).ackReply s.blk.engCur st)) ∧
    (s.blk.engCallout = .ackCb →
      exec (.handlerReturn st r) s = .next { s with blk.engCallout := .none })

/-- R271, where the batch ends: with its count reached, with too few frames (RX_SHORT), or on a frame
of another type, which is discarded (RX_INCONSISTENT, InternalInconsistency); val16 is 1 each
time. Under Stable the rest of the queue keeps its order. The draw counter that advances is the model's
own (log entry 3). -/
def Obligations.RxBatchEnds : Prop :=
  ∀ s : State, s.blk.engMode = .rx → s.blk.engCallout = .none →
    (s.blk.engRem = 0 →
      engineStep s =
        ({ s with blk.engMode := .idle, blk.engRem := 0, blk.engStatus := .ok } : State).doneHost
          s.blk.engStatus 1 []) ∧
    (s.blk.engRem ≠ 0 → s.blk.rxq = [] →
      engineStep s =
        ({ s with blk.status := s.blk.status ||| 0b000010#6, blk.engMode := .idle,
                  blk.engRem := 0, blk.engStatus := .ok } : State).doneHost s.blk.engStatus 1 []) ∧
    (s.blk.engRem ≠ 0 → ∀ e, sel s.blk.rxq = some e → e.frame.ty ≠ 0 → e.frame.ty ≠ 1 →
      ∃ xs, s.blk.rxq.Perm (e :: xs) ∧
        (s.params.pqTie = .stable → xs = s.blk.rxq.eraseIdx (s.blk.rxq.idxOf e)) ∧
        engineStep s =
          ({ s with blk.rxq := xs, draws := s.draws + 1,
                    blk.status := s.blk.status ||| 0b000100#6, blk.engMode := .idle,
                    blk.engRem := 0, blk.engStatus := .ok } : State).doneHost
            .internalInconsistency 1 [])

/-- R271 and R275 with R203: an RX Engine step takes the entry served next; a Data frame goes to a
handler of its id (under Newest the last registered), else to the default, as one CALLOUT_HANDLER
carrying the frame; with neither it gets the ACK-reply step with status 0x00 and no output. An Ack
frame goes to resolution. Under Stable the rest of the queue keeps its order. The draw counter that
advances is the model's own (log entry 3). -/
def Obligations.RxStepDispatchesByType : Prop :=
  ∀ (s : State) (e : QEntry), s.blk.engMode = .rx → s.blk.engCallout = .none →
    s.blk.engRem ≠ 0 → sel s.blk.rxq = some e →
    ∃ xs, s.blk.rxq.Perm (e :: xs) ∧
      (s.params.pqTie = .stable → xs = s.blk.rxq.eraseIdx (s.blk.rxq.idxOf e)) ∧
      ∃ u : State, u = { s with blk.rxq := xs, blk.engRem := s.blk.engRem - 1,
                                draws := s.draws + 1 } ∧
      (e.frame.ty = 1 → engineStep s = u.resolve e.frame) ∧
      (e.frame.ty = 0 →
        (∃ h : Handler, s.blk.regInit = true ∧
          ((∃ l r later, s.blk.reg = l ++ r :: later ∧ r.msgId = e.frame.msgId ∧
              (s.params.dupLookup = .newest → ∀ x ∈ later, x.msgId ≠ e.frame.msgId) ∧
              h = { cb := r.cb, ctx := r.ctx }) ∨
            ((∀ r ∈ s.blk.reg, r.msgId ≠ e.frame.msgId) ∧ s.blk.regDefault = some h)) ∧
          engineStep s =
            { u with
              draws := u.draws + 1, blk.engCur := e.frame, blk.engCallout := .handler,
              hostOut := s.hostOut ++ [[0x01000000#32, h.cb, h.ctx,
                e.frame.data.extractLsb' 0 32, e.frame.data.extractLsb' 32 32,
                e.frame.msgId ++ e.frame.sourceId, 0#16 ++ e.frame.dlc ++ e.frame.ty]] }) ∨
        ((s.blk.regInit = true → (∀ r ∈ s.blk.reg, r.msgId ≠ e.frame.msgId) ∧
            s.blk.regDefault = none) ∧
          engineStep s = ({ u with draws := u.draws + 1 } : State).ackReply e.frame 0x00))

/-- R280: the frame of a received record has the wire id's fields, the record's dlc and its data with
every byte at index ≥ dlc stored as 0, and it is valid (R42). -/
def Obligations.ReceivedFrameIsValidAndMasked : Prop :=
  ∀ r : RxRecord, r.dlc.toNat ≤ 8 →
    validFrame (recordFrame r) = true ∧
    (recordFrame r).sourceId.toNat = r.wire.toNat % 16 ∧
    (recordFrame r).ty.toNat = r.wire.toNat / 16 % 2 ∧
    (recordFrame r).msgId.toNat = r.wire.toNat / 32 % 64 ∧
    (recordFrame r).dlc.toNat = r.dlc.toNat ∧
    ∀ i, i < 8 → u8Field (recordFrame r).data i =
      if i < r.dlc.toNat then u8Field r.data i else 0

/-- R280: RX_IRQ pushes the records' frames in order, with key = message id, until the queue is full,
drops the rest and sets RX_OVERRUN exactly then, raises one RX event with the number pushed if that is
not 0, answers it, and touches nothing else. Under Stable the frames stand at the end in order; under
Any the queue is some order of what it held and the frames pushed. The premise on the queue's length
is the invariant's (R46). The draw counter is the model's own (log entry 3): nothing is said of it
here. -/
def Obligations.RxIrqDeliversUntilFull : Prop :=
  ∀ (rs : List RxRecord) (s : State),
    (∀ r ∈ rs, r.dlc.toNat ≤ 8) →
    s.blk.init = true → s.blk.rxqInit = true → s.blk.rxq.length ≤ s.blk.rxqCap.toNat →
    ∃ room pushed xs : List QEntry, ∃ n d : Nat,
      room = (rs.map recordFrame).map (fun f => { key := f.msgId, frame := f }) ∧
      pushed = room.take (s.blk.rxqCap.toNat - s.blk.rxq.length) ∧ n = pushed.length ∧
      xs.Perm (s.blk.rxq ++ pushed) ∧
      (s.params.pqTie = .stable → xs = s.blk.rxq ++ pushed) ∧
      exec (.rxIrq rs) s =
        .next (({ s with
          blk.rxq := xs,
          blk.status := if n < rs.length then s.blk.status ||| 0b000001#6 else s.blk.status,
          draws := d,
          evq := if 0 < n ∧ s.evq.length < s.params.evqCapacity
            then s.evq ++ [{ id := s.blk.rxEventId, data := BitVec.ofNat 16 n }] else s.evq } :
          State).doneIsr .ok (BitVec.ofNat 16 n))

/-- R281: TX_READY_IRQ raises (tx_event_id, 0) and touches nothing else. -/
def Obligations.TxReadyIrqResult : Prop :=
  ∀ s : State,
    encode .txReadyIrq = [0x71000000#32] ∧
    (s.blk.init = false → exec .txReadyIrq s = .next (s.doneIsr .uninitialized 0)) ∧
    (s.blk.init = true →
      exec .txReadyIrq s =
        .next (({ s with
          evq := if s.evq.length < s.params.evqCapacity
            then s.evq ++ [{ id := s.blk.txEventId, data := 0 }] else s.evq } :
          State).doneIsr .ok 0))

/-! ## CSRs -/

/-- CSR_READ answers each assigned CSR's fields at their bit positions, reserved bits 0, and
IllegalCommand for a number above 0x0E; it changes nothing. That an occupancy or a parameter too long
for its 16-bit half shows modulo 65536 is the model's choice of log entry 14; in every state that
meets the invariant the half holds the number itself, as R320 has it. -/
def Obligations.CsrReadResult : Prop :=
  ∀ s : State,
    (∀ n : Byte, encode (.csrRead n) = [0x60#8 ++ n ++ 0#16]) ∧
    (∀ n : Byte, n.toNat > 0x0E →
      exec (.csrRead n) s = .next (s.doneHost .illegalCommand 0 [])) ∧
    exec (.csrRead 0x00) s = .next (s.doneHost .ok 0 [BitVec.ofNat 32
      (s.blk.init.toNat + 2 * s.blk.dlcMode.toNat + 4 * s.blk.rxqInit.toNat +
        8 * s.blk.regInit.toNat)]) ∧
    exec (.csrRead 0x01) s = .next (s.doneHost .ok 0 [BitVec.ofNat 32 s.blk.status.toNat]) ∧
    exec (.csrRead 0x02) s = .next (s.doneHost .ok 0 [BitVec.ofNat 32 s.blk.deviceId.toNat]) ∧
    exec (.csrRead 0x03) s = .next (s.doneHost .ok 0 [BitVec.ofNat 32
      (s.blk.txEventId.toNat * 65536 + s.blk.rxEventId.toNat)]) ∧
    exec (.csrRead 0x04) s =
      .next (s.doneHost .ok 0 [BitVec.ofNat 32 s.blk.faultEventId.toNat]) ∧
    exec (.csrRead 0x05) s =
      .next (s.doneHost .ok 0 [BitVec.ofNat 32 (s.blk.critMask.toNat % 2 ^ 32)]) ∧
    exec (.csrRead 0x06) s =
      .next (s.doneHost .ok 0 [BitVec.ofNat 32 (s.blk.critMask.toNat / 2 ^ 32)]) ∧
    exec (.csrRead 0x07) s = .next (s.doneHost .ok 0 [BitVec.ofNat 32 s.blk.ackTimeout.toNat]) ∧
    exec (.csrRead 0x08) s =
      .next (s.doneHost .ok 0 [BitVec.ofNat 32 s.blk.txRetryLimit.toNat]) ∧
    exec (.csrRead 0x09) s = .next (s.doneHost .ok 0 [BitVec.ofNat 32 s.blk.txFailCount.toNat]) ∧
    exec (.csrRead 0x0A) s = .next (s.doneHost .ok 0 [match s.blk.fsmState with
      | .idle => 0 | .handlingRx => 1 | .handlingTx => 2]) ∧
    exec (.csrRead 0x0B) s = .next (s.doneHost .ok 0 [BitVec.ofNat 32
      (s.blk.rxqCap.toNat * 65536 + s.blk.rxq.length % 65536)]) ∧
    exec (.csrRead 0x0C) s = .next (s.doneHost .ok 0 [BitVec.ofNat 32
      (s.params.txqCapacity % 65536 * 65536 + s.blk.txq.length % 65536)]) ∧
    exec (.csrRead 0x0D) s = .next (s.doneHost .ok 0 [BitVec.ofNat 32
      (s.blk.regCap.toNat * 65536 + s.blk.reg.length % 65536)]) ∧
    exec (.csrRead 0x0E) s = .next (s.doneHost .ok 0 [BitVec.ofNat 32
      (s.params.ackMaxPending % 65536 * 65536 + s.blk.ack.length % 65536)])

/-- R322 with R323: CSR_WRITE changes exactly the writable fields of the CSR named: DLC_MODE, one
half of crit_mask, ACK_TIMEOUT, TX_RETRY_LIMIT, or the STATUS bits written 1, which it clears; a
read-only CSR is InvalidArgument and an unassigned number IllegalCommand, with no effect. -/
def Obligations.CsrWriteResult : Prop :=
  ∀ (v : Word) (s : State),
    (∀ n : Byte, encode (.csrWrite n v) = [0x61#8 ++ n ++ 0#16, v]) ∧
    (∀ n : Byte, n.toNat > 0x0E →
      exec (.csrWrite n v) s = .next (s.doneHost .illegalCommand 0 [])) ∧
    (∀ n : Byte, n.toNat ∈ [0x02, 0x03, 0x04, 0x09, 0x0A, 0x0B, 0x0C, 0x0D, 0x0E] →
      exec (.csrWrite n v) s = .next (s.doneHost .invalidArgument 0 [])) ∧
    exec (.csrWrite 0x00 v) s =
      .next (({ s with blk.dlcMode := v.getLsbD 1 } : State).doneHost .ok 0 []) ∧
    (∃ st : BitVec 6, (∀ i, i < 6 → st.getLsbD i = (s.blk.status.getLsbD i && !v.getLsbD i)) ∧
      exec (.csrWrite 0x01 v) s =
        .next (({ s with blk.status := st } : State).doneHost .ok 0 [])) ∧
    (∃ m : BitVec 64,
      (∀ i, m.getLsbD i = if i < 32 then v.getLsbD i else s.blk.critMask.getLsbD i) ∧
      exec (.csrWrite 0x05 v) s =
        .next (({ s with blk.critMask := m } : State).doneHost .ok 0 [])) ∧
    (∃ m : BitVec 64,
      (∀ i, m.getLsbD i = if i < 32 then s.blk.critMask.getLsbD i else v.getLsbD (i - 32)) ∧
      exec (.csrWrite 0x06 v) s =
        .next (({ s with blk.critMask := m } : State).doneHost .ok 0 [])) ∧
    exec (.csrWrite 0x07 v) s =
      .next (({ s with blk.ackTimeout := BitVec.ofNat 16 v.toNat } : State).doneHost .ok 0 []) ∧
    exec (.csrWrite 0x08 v) s =
      .next (({ s with blk.txRetryLimit := BitVec.ofNat 16 v.toNat } : State).doneHost .ok 0 [])

/-! ## Gating -/

/-- R344: while a callout is outstanding the five commands that would start a batch or tear down its
state answer Busy with no effect, and no other host-port command answers Busy. -/
def Obligations.BusyWhileCalloutOutstanding : Prop :=
  ∀ s : State, s.blk.engCallout ≠ .none →
    (∀ i : Instr, i.opcode ∈ [.processEvent, .ackTick, .canInit, .pqInit, .regInit] →
      exec i s = .next (s.doneHost .busy 0 [])) ∧
    (∀ (i : Instr) (t : State) (r : List Word),
      i.opcode ∉ [.processEvent, .ackTick, .canInit, .pqInit, .regInit] →
      exec i s = .next t → (t.hostOut = s.hostOut ++ [r] ∨ t.isrOut = s.isrOut ++ [r]) →
      respStatus r ≠ 0x07)

/-- R342: a command whose initialisation flag is 0 answers Uninitialized with no effect (where Busy,
and for RX_IRQ a dlc above 8, do not come first), and a command that needs none never does. -/
def Obligations.UninitializedGating : Prop :=
  ∀ (i : Instr) (s : State),
    (s.blk.init = false → i.opcode = .transmit →
      exec i s = .next (s.doneHost .uninitialized 0 [])) ∧
    (s.blk.init = false → s.blk.engCallout = .none → i.opcode ∈ [.processEvent, .ackTick] →
      exec i s = .next (s.doneHost .uninitialized 0 [])) ∧
    (s.blk.init = false ∨ s.blk.rxqInit = false → ∀ rs, i = .rxIrq rs →
      (∀ r ∈ rs, r.dlc.toNat ≤ 8) → exec i s = .next (s.doneIsr .uninitialized 0)) ∧
    (s.blk.init = false → i = .txReadyIrq → exec i s = .next (s.doneIsr .uninitialized 0)) ∧
    (s.blk.rxqInit = false → i.opcode ∈ [.pqPush, .pqPop, .pqPeek, .pqSize] →
      exec i s = .next (s.doneHost .uninitialized 0 [])) ∧
    (s.blk.regInit = false → i.opcode ∈ [.regDefault, .regAdd, .regLookup] →
      exec i s = .next (s.doneHost .uninitialized 0 [])) ∧
    (i.opcode ∈ [.idEncode, .idDecode, .packU8, .packU16, .packU32, .packU64, .pqInit,
        .regInit, .canInit, .handlerReturn, .csrRead, .csrWrite] →
      ∀ t r, exec i s = .next t → t.hostOut = s.hostOut ++ [r] → respStatus r ≠ 0x06)

/-! ## Reset and boot -/

/-- R380: the block's components after reset (eng_cur, which the rule leaves unspecified, is not
named); a reset turn puts the block there in one transition; and what the CSRs read then. -/
def Obligations.ResetValues : Prop :=
  (∃ cur : Frame, State.reset.blk =
    { init := false, rxqInit := false, regInit := false,
      deviceId := 0xFFFF, rxEventId := 0xFFFF, txEventId := 0xFFFF, faultEventId := 0xFFFF,
      dlcMode := false, critMask := 0, ackTimeout := 0, txRetryLimit := 0, txFailCount := 0,
      fsmState := .idle, status := 0, rxqCap := 0, rxq := [], txq := [], regCap := 0, reg := [],
      regDefault := none, ack := [], engMode := .idle, engRem := 0, engCallout := .none,
      engCur := cur, engExpired := [], engCount := 0, engStatus := .ok }) ∧
  (∀ (s : State) (rest : List Turn), s.dueTurns = .reset :: rest →
    step s = .next { s with turns := rest, blk := State.reset.blk }) ∧
  (∀ (s : State) (n : Byte), s.blk = State.reset.blk → n.toNat ≤ 0x0E →
    exec (.csrRead n) s = .next (s.doneHost .ok 0
      [if n = 0x02 ∨ n = 0x04 then 0x0000FFFF
       else if n = 0x03 then 0xFFFFFFFF
       else if n = 0x0C then BitVec.ofNat 32 s.params.txqCapacity <<< 16
       else if n = 0x0E then BitVec.ofNat 32 s.params.ackMaxPending <<< 16
       else 0]))

/-- R381: a reset turn puts the block at its reset values whatever batch or callout was in flight,
leaves the environment's event queue and bus log, emits no response and makes the host port ready; a
HANDLER_RETURN after it is NoCallout, and a PROCESS_EVENT Uninitialized. -/
def Obligations.ResetDiscardsWhatIsInFlight : Prop :=
  ∀ (s : State) (rest : List Turn), s.dueTurns = .reset :: rest →
    ∃ t, step s = .next t ∧ t = { s with turns := rest, blk := State.reset.blk } ∧
      t.blk.hostWaiting = false ∧
      (∀ st r, exec (.handlerReturn st r) t = .next (t.doneHost .noCallout 0 [])) ∧
      ∀ e d, exec (.processEvent e d) t = .next (t.doneHost .uninitialized 0 [])

/-- R386: after reset, CAN_INIT, PQ_INIT and REG_INIT with legal operands the clean-entry record
holds, if the event queue was empty. -/
def Obligations.BootReachesCleanEntry : Prop :=
  ∀ (s : State) (dev rx tx fe n k c : Half),
    s.blk = State.reset.blk → s.evq = [] →
    dev.toNat ≤ 15 → badEventIds rx tx fe = false →
    k.toNat = n.toNat + 1 → n.toNat ≤ s.params.rxqMaxSlots → c.toNat ≤ s.params.regMaxEntries →
    ∃ t, execAll [.canInit dev rx tx fe, .pqInit n k, .regInit c] s = some t ∧ CleanEntry t ∧
      t.hostOut = s.hostOut ++ List.replicate 3 [0x00000000#32]

/-! ## Whole-machine rules -/

/-- The reset state meets the invariant. -/
def Obligations.ResetMeetsInvariant : Prop := Inv State.reset

/-- Every step keeps the invariant: the bounds and contents of every store (R46, R47, R48, R50,
R352), the identity registers (R35), the Engine's consistency (R51, R346) and a well-formed bus
log (R120, R353). -/
def Obligations.StepKeepsInvariant : Prop :=
  ∀ s t : State, Inv s → step s = .next t → Inv t

/-- R34: an initialisation flag is never cleared except by reset; and no step, not even a reset,
changes the parameters of R6. -/
def Obligations.InitFlagsAndParametersPersist : Prop :=
  ∀ s t : State, step s = .next t →
    t.params = s.params ∧
    (s.dueTurns.head? ≠ some .reset →
      (s.blk.init = true → t.blk.init = true) ∧
      (s.blk.rxqInit = true → t.blk.rxqInit = true) ∧
      (s.blk.regInit = true → t.blk.regInit = true))

/-- R87: an ISR-port turn may only push to the RX queue, set RX_OVERRUN and raise events: nothing
queued is popped, and the dispatch table, the pending-ack table, the TX FIFO, the Engine, every
other register and the host port's output stay. The port accepts no command but RX_IRQ and
TX_READY_IRQ. -/
def Obligations.IsrOnlyPushesAndRaises : Prop :=
  (∀ (ws : List Word) (i : Instr), decode .isr ws = .ok i → i.opcode ∈ [.rxIrq, .txReadyIrq]) ∧
  ∀ (s t : State) (ws : List Word) (rest : List Turn), s.dueTurns = .isr ws :: rest →
    step s = .next t →
    ∃ (xs : List QEntry) (st : BitVec 6) (new : List QEntry) (ev : List Event),
      t.blk = { s.blk with rxq := xs, status := st } ∧
      xs.Perm (s.blk.rxq ++ new) ∧
      (st = s.blk.status ∨ st = s.blk.status ||| 0b000001#6) ∧
      t.evq = s.evq ++ ev ∧ ev.length ≤ 1 ∧
      t.hostOut = s.hostOut ∧ t.busLog = s.busLog ∧ t.answers = s.answers ∧
      t.turns = rest ∧ ∃ r, t.isrOut = s.isrOut ++ [r]

/-- R341: a host-port command that answers a status other than OK changes no state component, sets no
STATUS bit and raises no event; its one DONE response is its only output. -/
def Obligations.FailedCommandHasNoEffect : Prop :=
  ∀ (i : Instr) (s t : State) (r : List Word), exec i s = .next t →
    ((t.hostOut = s.hostOut ++ [r] ∧ t.isrOut = s.isrOut) ∨
      (t.isrOut = s.isrOut ++ [r] ∧ t.hostOut = s.hostOut)) →
    respStatus r ≠ 0x00 →
    t.blk = s.blk ∧ t.evq = s.evq ∧ t.busLog = s.busLog ∧ t.answers = s.answers ∧
      r.length = 1

/-- R270 and R359: each host command gets exactly one response. Counting the response a running batch
owes, a step adds one exactly when it takes a Host command (host, or forward of an event). -/
def Obligations.OneResponsePerHostCommand : Prop :=
  ∀ s t : State, Inv s → step s = .next t → s.dueTurns.head? ≠ some .reset →
    t.hostOut.length + owed t = s.hostOut.length + owed s +
      (if hostCommandTaken s then 1 else 0)

/-- R346 and R360: no command emits a callout, and no command but HANDLER_RETURN ends one; only
Engine steps call out. So a block with a callout outstanding is stuck where no turn to come, listed or
of the cycle, is a HANDLER_RETURN or a reset, whatever else the host goes on doing; where the next
turn is one of those two, it is not. -/
def Obligations.CommandsNeverCallOut : Prop :=
  (∀ (i : Instr) (s t : State), exec i s = .next t →
    (t.hostOut = s.hostOut ∨ ∃ r, t.hostOut = s.hostOut ++ [r] ∧ respKind r = 0x00) ∧
    (t.blk.engCallout = s.blk.engCallout ∨
      (i.opcode = .handlerReturn ∧ t.blk.engCallout = .none))) ∧
  (∀ s : State, s.blk.engCallout ≠ .none →
    (∀ u ∈ s.turns ++ s.turnCycle, u ≠ .reset ∧
      ∀ ws st r, u = .host ws → decode .host ws ≠ .ok (.handlerReturn st r)) →
    StuckOnHost s) ∧
  (∀ (s : State) (ws : List Word) (rest : List Turn) (st : Byte) (r : Half),
    s.dueTurns = .host ws :: rest → decode .host ws = .ok (.handlerReturn st r) →
    ¬ StuckOnHost s) ∧
  (∀ (s : State) (rest : List Turn), s.dueTurns = .reset :: rest → ¬ StuckOnHost s)

/-- R351: CAN_INIT stores the fault event's id, the block never raises it, and PROCESS_EVENT treats
it as unhandled. An event a step adds, other than a collaborator's, is the RX event or the TX event
with data 0. -/
def Obligations.FaultEventNeverRaised : Prop :=
  (∀ s t : State, Inv s → step s = .next t → (∀ e rest, s.dueTurns ≠ .collaborator e :: rest) →
    ∀ e ∈ t.evq, e ∈ s.evq ∨
      (e.id ≠ s.blk.faultEventId ∧
        (e.id = s.blk.rxEventId ∨ (e.id = s.blk.txEventId ∧ e.data = 0)))) ∧
  (∀ (s t : State) (dev rx tx fe : Half), s.blk.init = false →
    exec (.canInit dev rx tx fe) s = .next t → t.blk.init = true → t.blk.faultEventId = fe) ∧
  (∀ (s : State) (d : Half), Inv s → s.blk.init = true → s.blk.engCallout = .none →
    exec (.processEvent s.blk.faultEventId d) s = .next (s.doneHost .ok 0 []))

/-- R47 and R90 item 2: frames leave the TX FIFO only from the head, by an accepted attempt that logs
that frame on the bus, or all at once by CAN_INIT or reset; and are appended only at the end. -/
def Obligations.TxFifoIsStrictlyFifo : Prop :=
  ∀ s t : State, step s = .next t →
    (∃ new, t.blk.txq = s.blk.txq ++ new ∧ t.busLog = s.busLog) ∨
    (∃ f rest, s.blk.txq = f :: rest ∧ t.blk.txq = rest ∧
      t.busLog = s.busLog ++ [{ wire := wireOf f.ty f.msgId f.sourceId, dlc := f.dlc,
                                bytes := (List.range f.dlc.toNat).map (u8Field f.data) }]) ∨
    (t.blk.txq = [] ∧ t.busLog = s.busLog ∧
      (s.dueTurns.head? = some .reset ∨
        ∃ ws rest dev rx tx fe, s.dueTurns = .host ws :: rest ∧
          decode .host ws = .ok (.canInit dev rx tx fe)))

/-- R282 and R177: an Engine step never invents, duplicates or loses a queued frame: it takes the
entry served next, or none. -/
def Obligations.EngineTakesOnlyTheServedFrame : Prop :=
  ∀ s : State,
    (engineStep s).blk.rxq = s.blk.rxq ∨
    ∃ e, sel s.blk.rxq = some e ∧ s.blk.rxq.Perm (e :: (engineStep s).blk.rxq)

/-- R39: a sticky flag that is set stays set, except where the step takes a CSR_WRITE to STATUS that
writes its bit 1, or a reset. -/
def Obligations.StickyFlagsStaySet : Prop :=
  ∀ (s t : State) (k : Nat), step s = .next t → s.dueTurns.head? ≠ some .reset →
    (∀ ws v rest, s.dueTurns = .host ws :: rest → decode .host ws = .ok (.csrWrite 0x01 v) →
      v.getLsbD k = false) →
    s.blk.status.getLsbD k = true → t.blk.status.getLsbD k = true

/-- R392: an RX batch that is running ends or calls out within its remaining count plus one Engine
steps, and a tick batch within one. -/
def Obligations.BatchReachesItsResponse : Prop :=
  ∀ s : State, s.blk.hostWaiting = true →
    (s.blk.engMode = .rx →
      ∃ n, n ≤ s.blk.engRem.toNat + 1 ∧ (engineRun n s).blk.hostWaiting = false ∧
        (engineRun n s).hostOut.length = s.hostOut.length + 1) ∧
    (s.blk.engMode = .tick →
      (engineStep s).blk.hostWaiting = false ∧
        (engineStep s).hostOut.length = s.hostOut.length + 1)

/-- R360's hang, and the premise that rules it out: a main loop that drains the event queue for ever,
before a transport that answers busy for ever, runs TX processing for ever if TX_RETRY_LIMIT is 0,
with the frame still at the head and the TX event raised again; with a limit the event is gone after
at most that many attempts, with TX_STALL set. -/
def Obligations.BusyTransportHangsUnlessBounded : Prop :=
  ∀ (s : State) (f : Frame) (rest : List Frame), DrainsBeforeBusyTransport s →
    s.blk.init = true → s.blk.engMode = .idle → s.blk.engCallout = .none →
    s.blk.txEventId ≠ s.blk.rxEventId → s.blk.txq = f :: rest → 1 ≤ s.params.evqCapacity →
    s.evq = [{ id := s.blk.txEventId, data := 0 }] →
    (s.blk.txRetryLimit = 0 → ∀ k, ∃ t, runSteps (2 * k) s = some t ∧
      t.evq = s.evq ∧ t.blk.txq = f :: rest ∧ t.busLog = s.busLog ∧
      t.blk.status = s.blk.status ∧
      t.blk.txFailCount.toNat = min (s.blk.txFailCount.toNat + k) 0xFFFF ∧
      t.hostOut = s.hostOut ++ List.replicate k [0x00000001#32]) ∧
    (s.blk.txRetryLimit ≠ 0 → ∃ k t, 1 ≤ k ∧ k ≤ s.blk.txRetryLimit.toNat ∧
      runSteps (2 * k) s = some t ∧ t.evq = [] ∧ t.blk.txq = f :: rest ∧ t.busLog = s.busLog ∧
      statusFlag t.blk.status .txStall = true ∧
      t.hostOut = s.hostOut ++ List.replicate k [0x00000001#32])
end

