-- ==== Sys2Proof/Laws/State.lean ====
section
/-! SUPPORT. One lemma per field of State per update of Ops, each true by rfl, so that no proof
unfolds an update to read a field. A field of the block after an update follows from the update's
blk lemma by projection. -/

namespace Sys2Proof.Machine

open Sys2Proof

variable (s : State)

/-! ## respondHost -/

@[simp] theorem State.respondHost_blk (ws : List Word) : (s.respondHost ws).blk = s.blk := rfl
@[simp] theorem State.respondHost_evq (ws : List Word) : (s.respondHost ws).evq = s.evq := rfl
@[simp] theorem State.respondHost_busLog (ws : List Word) :
    (s.respondHost ws).busLog = s.busLog := rfl
@[simp] theorem State.respondHost_params (ws : List Word) :
    (s.respondHost ws).params = s.params := rfl
@[simp] theorem State.respondHost_turns (ws : List Word) : (s.respondHost ws).turns = s.turns := rfl
@[simp] theorem State.respondHost_turnCycle (ws : List Word) :
    (s.respondHost ws).turnCycle = s.turnCycle := rfl
@[simp] theorem State.respondHost_answers (ws : List Word) :
    (s.respondHost ws).answers = s.answers := rfl
@[simp] theorem State.respondHost_answerCycle (ws : List Word) :
    (s.respondHost ws).answerCycle = s.answerCycle := rfl
@[simp] theorem State.respondHost_draws (ws : List Word) : (s.respondHost ws).draws = s.draws := rfl
@[simp] theorem State.respondHost_hostOut (ws : List Word) :
    (s.respondHost ws).hostOut = s.hostOut ++ [ws] := rfl
@[simp] theorem State.respondHost_isrOut (ws : List Word) :
    (s.respondHost ws).isrOut = s.isrOut := rfl
@[simp] theorem State.respondHost_taken (ws : List Word) : (s.respondHost ws).taken = s.taken := rfl

/-! ## respondIsr -/

@[simp] theorem State.respondIsr_blk (ws : List Word) : (s.respondIsr ws).blk = s.blk := rfl
@[simp] theorem State.respondIsr_evq (ws : List Word) : (s.respondIsr ws).evq = s.evq := rfl
@[simp] theorem State.respondIsr_busLog (ws : List Word) :
    (s.respondIsr ws).busLog = s.busLog := rfl
@[simp] theorem State.respondIsr_params (ws : List Word) :
    (s.respondIsr ws).params = s.params := rfl
@[simp] theorem State.respondIsr_turns (ws : List Word) : (s.respondIsr ws).turns = s.turns := rfl
@[simp] theorem State.respondIsr_turnCycle (ws : List Word) :
    (s.respondIsr ws).turnCycle = s.turnCycle := rfl
@[simp] theorem State.respondIsr_answers (ws : List Word) :
    (s.respondIsr ws).answers = s.answers := rfl
@[simp] theorem State.respondIsr_answerCycle (ws : List Word) :
    (s.respondIsr ws).answerCycle = s.answerCycle := rfl
@[simp] theorem State.respondIsr_draws (ws : List Word) : (s.respondIsr ws).draws = s.draws := rfl
@[simp] theorem State.respondIsr_hostOut (ws : List Word) :
    (s.respondIsr ws).hostOut = s.hostOut := rfl
@[simp] theorem State.respondIsr_isrOut (ws : List Word) :
    (s.respondIsr ws).isrOut = s.isrOut ++ [ws] := rfl
@[simp] theorem State.respondIsr_taken (ws : List Word) : (s.respondIsr ws).taken = s.taken := rfl

/-! ## doneHost -/

@[simp] theorem State.doneHost_blk (st : Status) (v : Half) (ws : List Word) :
    (s.doneHost st v ws).blk = s.blk := rfl
@[simp] theorem State.doneHost_evq (st : Status) (v : Half) (ws : List Word) :
    (s.doneHost st v ws).evq = s.evq := rfl
@[simp] theorem State.doneHost_busLog (st : Status) (v : Half) (ws : List Word) :
    (s.doneHost st v ws).busLog = s.busLog := rfl
@[simp] theorem State.doneHost_params (st : Status) (v : Half) (ws : List Word) :
    (s.doneHost st v ws).params = s.params := rfl
@[simp] theorem State.doneHost_turns (st : Status) (v : Half) (ws : List Word) :
    (s.doneHost st v ws).turns = s.turns := rfl
@[simp] theorem State.doneHost_turnCycle (st : Status) (v : Half) (ws : List Word) :
    (s.doneHost st v ws).turnCycle = s.turnCycle := rfl
@[simp] theorem State.doneHost_answers (st : Status) (v : Half) (ws : List Word) :
    (s.doneHost st v ws).answers = s.answers := rfl
@[simp] theorem State.doneHost_answerCycle (st : Status) (v : Half) (ws : List Word) :
    (s.doneHost st v ws).answerCycle = s.answerCycle := rfl
@[simp] theorem State.doneHost_draws (st : Status) (v : Half) (ws : List Word) :
    (s.doneHost st v ws).draws = s.draws := rfl
@[simp] theorem State.doneHost_hostOut (st : Status) (v : Half) (ws : List Word) :
    (s.doneHost st v ws).hostOut = s.hostOut ++ [doneWords st v ws] := rfl
@[simp] theorem State.doneHost_isrOut (st : Status) (v : Half) (ws : List Word) :
    (s.doneHost st v ws).isrOut = s.isrOut := rfl
@[simp] theorem State.doneHost_taken (st : Status) (v : Half) (ws : List Word) :
    (s.doneHost st v ws).taken = s.taken := rfl

/-! ## doneIsr -/

@[simp] theorem State.doneIsr_blk (st : Status) (v : Half) : (s.doneIsr st v).blk = s.blk := rfl
@[simp] theorem State.doneIsr_evq (st : Status) (v : Half) : (s.doneIsr st v).evq = s.evq := rfl
@[simp] theorem State.doneIsr_busLog (st : Status) (v : Half) :
    (s.doneIsr st v).busLog = s.busLog := rfl
@[simp] theorem State.doneIsr_params (st : Status) (v : Half) :
    (s.doneIsr st v).params = s.params := rfl
@[simp] theorem State.doneIsr_turns (st : Status) (v : Half) :
    (s.doneIsr st v).turns = s.turns := rfl
@[simp] theorem State.doneIsr_turnCycle (st : Status) (v : Half) :
    (s.doneIsr st v).turnCycle = s.turnCycle := rfl
@[simp] theorem State.doneIsr_answers (st : Status) (v : Half) :
    (s.doneIsr st v).answers = s.answers := rfl
@[simp] theorem State.doneIsr_answerCycle (st : Status) (v : Half) :
    (s.doneIsr st v).answerCycle = s.answerCycle := rfl
@[simp] theorem State.doneIsr_draws (st : Status) (v : Half) :
    (s.doneIsr st v).draws = s.draws := rfl
@[simp] theorem State.doneIsr_hostOut (st : Status) (v : Half) :
    (s.doneIsr st v).hostOut = s.hostOut := rfl
@[simp] theorem State.doneIsr_isrOut (st : Status) (v : Half) :
    (s.doneIsr st v).isrOut = s.isrOut ++ [doneWords st v []] := rfl
@[simp] theorem State.doneIsr_taken (st : Status) (v : Half) :
    (s.doneIsr st v).taken = s.taken := rfl

/-! ## raiseHost -/

@[simp] theorem State.raiseHost_blk (st : Status) : (s.raiseHost st).blk = s.blk := rfl
@[simp] theorem State.raiseHost_evq (st : Status) : (s.raiseHost st).evq = s.evq := rfl
@[simp] theorem State.raiseHost_busLog (st : Status) : (s.raiseHost st).busLog = s.busLog := rfl
@[simp] theorem State.raiseHost_params (st : Status) : (s.raiseHost st).params = s.params := rfl
@[simp] theorem State.raiseHost_turns (st : Status) : (s.raiseHost st).turns = s.turns := rfl
@[simp] theorem State.raiseHost_turnCycle (st : Status) :
    (s.raiseHost st).turnCycle = s.turnCycle := rfl
@[simp] theorem State.raiseHost_answers (st : Status) : (s.raiseHost st).answers = s.answers := rfl
@[simp] theorem State.raiseHost_answerCycle (st : Status) :
    (s.raiseHost st).answerCycle = s.answerCycle := rfl
@[simp] theorem State.raiseHost_draws (st : Status) : (s.raiseHost st).draws = s.draws := rfl
@[simp] theorem State.raiseHost_hostOut (st : Status) :
    (s.raiseHost st).hostOut = s.hostOut ++ [doneWords st 0 []] := rfl
@[simp] theorem State.raiseHost_isrOut (st : Status) : (s.raiseHost st).isrOut = s.isrOut := rfl
@[simp] theorem State.raiseHost_taken (st : Status) : (s.raiseHost st).taken = s.taken := rfl

/-! ## raiseIsr -/

@[simp] theorem State.raiseIsr_blk (st : Status) : (s.raiseIsr st).blk = s.blk := rfl
@[simp] theorem State.raiseIsr_evq (st : Status) : (s.raiseIsr st).evq = s.evq := rfl
@[simp] theorem State.raiseIsr_busLog (st : Status) : (s.raiseIsr st).busLog = s.busLog := rfl
@[simp] theorem State.raiseIsr_params (st : Status) : (s.raiseIsr st).params = s.params := rfl
@[simp] theorem State.raiseIsr_turns (st : Status) : (s.raiseIsr st).turns = s.turns := rfl
@[simp] theorem State.raiseIsr_turnCycle (st : Status) :
    (s.raiseIsr st).turnCycle = s.turnCycle := rfl
@[simp] theorem State.raiseIsr_answers (st : Status) : (s.raiseIsr st).answers = s.answers := rfl
@[simp] theorem State.raiseIsr_answerCycle (st : Status) :
    (s.raiseIsr st).answerCycle = s.answerCycle := rfl
@[simp] theorem State.raiseIsr_draws (st : Status) : (s.raiseIsr st).draws = s.draws := rfl
@[simp] theorem State.raiseIsr_hostOut (st : Status) : (s.raiseIsr st).hostOut = s.hostOut := rfl
@[simp] theorem State.raiseIsr_isrOut (st : Status) :
    (s.raiseIsr st).isrOut = s.isrOut ++ [doneWords st 0 []] := rfl
@[simp] theorem State.raiseIsr_taken (st : Status) : (s.raiseIsr st).taken = s.taken := rfl

/-! ## withBlk -/

@[simp] theorem State.withBlk_blk (b : Block) : (s.withBlk b).blk = b := rfl
@[simp] theorem State.withBlk_evq (b : Block) : (s.withBlk b).evq = s.evq := rfl
@[simp] theorem State.withBlk_busLog (b : Block) : (s.withBlk b).busLog = s.busLog := rfl
@[simp] theorem State.withBlk_params (b : Block) : (s.withBlk b).params = s.params := rfl
@[simp] theorem State.withBlk_turns (b : Block) : (s.withBlk b).turns = s.turns := rfl
@[simp] theorem State.withBlk_turnCycle (b : Block) : (s.withBlk b).turnCycle = s.turnCycle := rfl
@[simp] theorem State.withBlk_answers (b : Block) : (s.withBlk b).answers = s.answers := rfl
@[simp] theorem State.withBlk_answerCycle (b : Block) :
    (s.withBlk b).answerCycle = s.answerCycle := rfl
@[simp] theorem State.withBlk_draws (b : Block) : (s.withBlk b).draws = s.draws := rfl
@[simp] theorem State.withBlk_hostOut (b : Block) : (s.withBlk b).hostOut = s.hostOut := rfl
@[simp] theorem State.withBlk_isrOut (b : Block) : (s.withBlk b).isrOut = s.isrOut := rfl
@[simp] theorem State.withBlk_taken (b : Block) : (s.withBlk b).taken = s.taken := rfl

/-! ## mark -/

@[simp] theorem State.mark_blk (b : StatusBit) :
    (s.mark b).blk = { s.blk with status := markStatus s.blk.status b } := rfl
@[simp] theorem State.mark_evq (b : StatusBit) : (s.mark b).evq = s.evq := rfl
@[simp] theorem State.mark_busLog (b : StatusBit) : (s.mark b).busLog = s.busLog := rfl
@[simp] theorem State.mark_params (b : StatusBit) : (s.mark b).params = s.params := rfl
@[simp] theorem State.mark_turns (b : StatusBit) : (s.mark b).turns = s.turns := rfl
@[simp] theorem State.mark_turnCycle (b : StatusBit) : (s.mark b).turnCycle = s.turnCycle := rfl
@[simp] theorem State.mark_answers (b : StatusBit) : (s.mark b).answers = s.answers := rfl
@[simp] theorem State.mark_answerCycle (b : StatusBit) :
    (s.mark b).answerCycle = s.answerCycle := rfl
@[simp] theorem State.mark_draws (b : StatusBit) : (s.mark b).draws = s.draws := rfl
@[simp] theorem State.mark_hostOut (b : StatusBit) : (s.mark b).hostOut = s.hostOut := rfl
@[simp] theorem State.mark_isrOut (b : StatusBit) : (s.mark b).isrOut = s.isrOut := rfl
@[simp] theorem State.mark_taken (b : StatusBit) : (s.mark b).taken = s.taken := rfl

/-! ## nextDraw -/

@[simp] theorem State.nextDraw_blk : (s.nextDraw).blk = s.blk := rfl
@[simp] theorem State.nextDraw_evq : (s.nextDraw).evq = s.evq := rfl
@[simp] theorem State.nextDraw_busLog : (s.nextDraw).busLog = s.busLog := rfl
@[simp] theorem State.nextDraw_params : (s.nextDraw).params = s.params := rfl
@[simp] theorem State.nextDraw_turns : (s.nextDraw).turns = s.turns := rfl
@[simp] theorem State.nextDraw_turnCycle : (s.nextDraw).turnCycle = s.turnCycle := rfl
@[simp] theorem State.nextDraw_answers : (s.nextDraw).answers = s.answers := rfl
@[simp] theorem State.nextDraw_answerCycle : (s.nextDraw).answerCycle = s.answerCycle := rfl
@[simp] theorem State.nextDraw_draws : (s.nextDraw).draws = s.draws + 1 := rfl
@[simp] theorem State.nextDraw_hostOut : (s.nextDraw).hostOut = s.hostOut := rfl
@[simp] theorem State.nextDraw_isrOut : (s.nextDraw).isrOut = s.isrOut := rfl
@[simp] theorem State.nextDraw_taken : (s.nextDraw).taken = s.taken := rfl

/-! ## useAnswer -/

@[simp] theorem State.useAnswer_blk : (s.useAnswer).blk = s.blk := rfl
@[simp] theorem State.useAnswer_evq : (s.useAnswer).evq = s.evq := rfl
@[simp] theorem State.useAnswer_busLog : (s.useAnswer).busLog = s.busLog := rfl
@[simp] theorem State.useAnswer_params : (s.useAnswer).params = s.params := rfl
@[simp] theorem State.useAnswer_turns : (s.useAnswer).turns = s.turns := rfl
@[simp] theorem State.useAnswer_turnCycle : (s.useAnswer).turnCycle = s.turnCycle := rfl
@[simp] theorem State.useAnswer_answers : (s.useAnswer).answers = s.dueAnswers.tail := rfl
@[simp] theorem State.useAnswer_answerCycle : (s.useAnswer).answerCycle = s.answerCycle := rfl
@[simp] theorem State.useAnswer_draws : (s.useAnswer).draws = s.draws + 1 := rfl
@[simp] theorem State.useAnswer_hostOut : (s.useAnswer).hostOut = s.hostOut := rfl
@[simp] theorem State.useAnswer_isrOut : (s.useAnswer).isrOut = s.isrOut := rfl
@[simp] theorem State.useAnswer_taken : (s.useAnswer).taken = s.taken := rfl

/-! ## logBus -/

@[simp] theorem State.logBus_blk (f : BusFrame) : (s.logBus f).blk = s.blk := rfl
@[simp] theorem State.logBus_evq (f : BusFrame) : (s.logBus f).evq = s.evq := rfl
@[simp] theorem State.logBus_busLog (f : BusFrame) : (s.logBus f).busLog = s.busLog ++ [f] := rfl
@[simp] theorem State.logBus_params (f : BusFrame) : (s.logBus f).params = s.params := rfl
@[simp] theorem State.logBus_turns (f : BusFrame) : (s.logBus f).turns = s.turns := rfl
@[simp] theorem State.logBus_turnCycle (f : BusFrame) : (s.logBus f).turnCycle = s.turnCycle := rfl
@[simp] theorem State.logBus_answers (f : BusFrame) : (s.logBus f).answers = s.answers := rfl
@[simp] theorem State.logBus_answerCycle (f : BusFrame) :
    (s.logBus f).answerCycle = s.answerCycle := rfl
@[simp] theorem State.logBus_draws (f : BusFrame) : (s.logBus f).draws = s.draws := rfl
@[simp] theorem State.logBus_hostOut (f : BusFrame) : (s.logBus f).hostOut = s.hostOut := rfl
@[simp] theorem State.logBus_isrOut (f : BusFrame) : (s.logBus f).isrOut = s.isrOut := rfl
@[simp] theorem State.logBus_taken (f : BusFrame) : (s.logBus f).taken = s.taken := rfl

/-! ## setRxq -/

@[simp] theorem State.setRxq_blk (xs : List QEntry) :
    (s.setRxq xs).blk = { s.blk with rxq := retie s.params.pqTie s.draws xs } := rfl
@[simp] theorem State.setRxq_evq (xs : List QEntry) : (s.setRxq xs).evq = s.evq := rfl
@[simp] theorem State.setRxq_busLog (xs : List QEntry) : (s.setRxq xs).busLog = s.busLog := rfl
@[simp] theorem State.setRxq_params (xs : List QEntry) : (s.setRxq xs).params = s.params := rfl
@[simp] theorem State.setRxq_turns (xs : List QEntry) : (s.setRxq xs).turns = s.turns := rfl
@[simp] theorem State.setRxq_turnCycle (xs : List QEntry) :
    (s.setRxq xs).turnCycle = s.turnCycle := rfl
@[simp] theorem State.setRxq_answers (xs : List QEntry) : (s.setRxq xs).answers = s.answers := rfl
@[simp] theorem State.setRxq_answerCycle (xs : List QEntry) :
    (s.setRxq xs).answerCycle = s.answerCycle := rfl
@[simp] theorem State.setRxq_draws (xs : List QEntry) : (s.setRxq xs).draws = s.draws + 1 := rfl
@[simp] theorem State.setRxq_hostOut (xs : List QEntry) : (s.setRxq xs).hostOut = s.hostOut := rfl
@[simp] theorem State.setRxq_isrOut (xs : List QEntry) : (s.setRxq xs).isrOut = s.isrOut := rfl
@[simp] theorem State.setRxq_taken (xs : List QEntry) : (s.setRxq xs).taken = s.taken := rfl

/-! ## enterCallout -/

@[simp] theorem State.enterCallout_blk (k : Callout) (ws : List Word) :
    (s.enterCallout k ws).blk = { s.blk with engCallout := k } := rfl
@[simp] theorem State.enterCallout_evq (k : Callout) (ws : List Word) :
    (s.enterCallout k ws).evq = s.evq := rfl
@[simp] theorem State.enterCallout_busLog (k : Callout) (ws : List Word) :
    (s.enterCallout k ws).busLog = s.busLog := rfl
@[simp] theorem State.enterCallout_params (k : Callout) (ws : List Word) :
    (s.enterCallout k ws).params = s.params := rfl
@[simp] theorem State.enterCallout_turns (k : Callout) (ws : List Word) :
    (s.enterCallout k ws).turns = s.turns := rfl
@[simp] theorem State.enterCallout_turnCycle (k : Callout) (ws : List Word) :
    (s.enterCallout k ws).turnCycle = s.turnCycle := rfl
@[simp] theorem State.enterCallout_answers (k : Callout) (ws : List Word) :
    (s.enterCallout k ws).answers = s.answers := rfl
@[simp] theorem State.enterCallout_answerCycle (k : Callout) (ws : List Word) :
    (s.enterCallout k ws).answerCycle = s.answerCycle := rfl
@[simp] theorem State.enterCallout_draws (k : Callout) (ws : List Word) :
    (s.enterCallout k ws).draws = s.draws := rfl
@[simp] theorem State.enterCallout_hostOut (k : Callout) (ws : List Word) :
    (s.enterCallout k ws).hostOut = s.hostOut ++ [ws] := rfl
@[simp] theorem State.enterCallout_isrOut (k : Callout) (ws : List Word) :
    (s.enterCallout k ws).isrOut = s.isrOut := rfl
@[simp] theorem State.enterCallout_taken (k : Callout) (ws : List Word) :
    (s.enterCallout k ws).taken = s.taken := rfl

/-! ## leaveCallout -/

@[simp] theorem State.leaveCallout_blk :
    (s.leaveCallout).blk = { s.blk with engCallout := .none } := rfl
@[simp] theorem State.leaveCallout_evq : (s.leaveCallout).evq = s.evq := rfl
@[simp] theorem State.leaveCallout_busLog : (s.leaveCallout).busLog = s.busLog := rfl
@[simp] theorem State.leaveCallout_params : (s.leaveCallout).params = s.params := rfl
@[simp] theorem State.leaveCallout_turns : (s.leaveCallout).turns = s.turns := rfl
@[simp] theorem State.leaveCallout_turnCycle : (s.leaveCallout).turnCycle = s.turnCycle := rfl
@[simp] theorem State.leaveCallout_answers : (s.leaveCallout).answers = s.answers := rfl
@[simp] theorem State.leaveCallout_answerCycle : (s.leaveCallout).answerCycle = s.answerCycle := rfl
@[simp] theorem State.leaveCallout_draws : (s.leaveCallout).draws = s.draws := rfl
@[simp] theorem State.leaveCallout_hostOut : (s.leaveCallout).hostOut = s.hostOut := rfl
@[simp] theorem State.leaveCallout_isrOut : (s.leaveCallout).isrOut = s.isrOut := rfl
@[simp] theorem State.leaveCallout_taken : (s.leaveCallout).taken = s.taken := rfl

/-! ## processCall -/

@[simp] theorem State.processCall_blk : (s.processCall).blk = s.blk := rfl
@[simp] theorem State.processCall_evq : (s.processCall).evq = s.evq.tail := rfl
@[simp] theorem State.processCall_busLog : (s.processCall).busLog = s.busLog := rfl
@[simp] theorem State.processCall_params : (s.processCall).params = s.params := rfl
@[simp] theorem State.processCall_turns : (s.processCall).turns = s.turns := rfl
@[simp] theorem State.processCall_turnCycle : (s.processCall).turnCycle = s.turnCycle := rfl
@[simp] theorem State.processCall_answers : (s.processCall).answers = s.answers := rfl
@[simp] theorem State.processCall_answerCycle : (s.processCall).answerCycle = s.answerCycle := rfl
@[simp] theorem State.processCall_draws : (s.processCall).draws = s.draws := rfl
@[simp] theorem State.processCall_hostOut : (s.processCall).hostOut = s.hostOut := rfl
@[simp] theorem State.processCall_isrOut : (s.processCall).isrOut = s.isrOut := rfl
@[simp] theorem State.processCall_taken : (s.processCall).taken = s.evq.head? := rfl

/-! ## evRaise: the one conditional update (R352) -/

/-- A raise either appends the event to a queue with room, or changes nothing. -/
theorem State.evRaise_cases (id d : Half) :
    (s.evq.length < s.params.evqCapacity ∧
      s.evRaise id d = { s with evq := s.evq ++ [{ id := id, data := d }] }) ∨
    (s.params.evqCapacity ≤ s.evq.length ∧ s.evRaise id d = s) := by
  unfold State.evRaise
  split
  · exact .inl ⟨‹_›, rfl⟩
  · exact .inr ⟨Nat.le_of_not_lt ‹_›, rfl⟩

@[simp] theorem State.evRaise_blk (id d : Half) : (s.evRaise id d).blk = s.blk := by
  unfold State.evRaise; split <;> rfl
@[simp] theorem State.evRaise_evq (id d : Half) :
    (s.evRaise id d).evq =
      if s.evq.length < s.params.evqCapacity then s.evq ++ [{ id := id, data := d }] else s.evq := by
  unfold State.evRaise; split <;> rfl
@[simp] theorem State.evRaise_busLog (id d : Half) : (s.evRaise id d).busLog = s.busLog := by
  unfold State.evRaise; split <;> rfl
@[simp] theorem State.evRaise_params (id d : Half) : (s.evRaise id d).params = s.params := by
  unfold State.evRaise; split <;> rfl
@[simp] theorem State.evRaise_turns (id d : Half) : (s.evRaise id d).turns = s.turns := by
  unfold State.evRaise; split <;> rfl
@[simp] theorem State.evRaise_turnCycle (id d : Half) :
    (s.evRaise id d).turnCycle = s.turnCycle := by
  unfold State.evRaise; split <;> rfl
@[simp] theorem State.evRaise_answers (id d : Half) : (s.evRaise id d).answers = s.answers := by
  unfold State.evRaise; split <;> rfl
@[simp] theorem State.evRaise_answerCycle (id d : Half) :
    (s.evRaise id d).answerCycle = s.answerCycle := by
  unfold State.evRaise; split <;> rfl
@[simp] theorem State.evRaise_draws (id d : Half) : (s.evRaise id d).draws = s.draws := by
  unfold State.evRaise; split <;> rfl
@[simp] theorem State.evRaise_hostOut (id d : Half) : (s.evRaise id d).hostOut = s.hostOut := by
  unfold State.evRaise; split <;> rfl
@[simp] theorem State.evRaise_isrOut (id d : Half) : (s.evRaise id d).isrOut = s.isrOut := by
  unfold State.evRaise; split <;> rfl
@[simp] theorem State.evRaise_taken (id d : Half) : (s.evRaise id d).taken = s.taken := by
  unfold State.evRaise; split <;> rfl

/-! ## What is to come -/

@[simp] theorem State.dueTurns_cons {t : Turn} {rest : List Turn} (h : s.turns = t :: rest) :
    s.dueTurns = t :: rest := by simp [State.dueTurns, h]
@[simp] theorem State.dueTurns_nil (h : s.turns = []) : s.dueTurns = s.turnCycle := by
  simp [State.dueTurns, h]
@[simp] theorem State.dueAnswers_cons {a : TxAnswer} {rest : List TxAnswer}
    (h : s.answers = a :: rest) : s.dueAnswers = a :: rest := by simp [State.dueAnswers, h]
@[simp] theorem State.dueAnswers_nil (h : s.answers = []) : s.dueAnswers = s.answerCycle := by
  simp [State.dueAnswers, h]

/-- An update that keeps both lists of turns keeps what is to come. -/
theorem State.dueTurns_eq {s u : State} (h : u.turns = s.turns) (hc : u.turnCycle = s.turnCycle) :
    u.dueTurns = s.dueTurns := by simp [State.dueTurns, h, hc]

end Sys2Proof.Machine
end

