-- ==== Sys2Proof/Laws/Bits.lean ====
section
/-! SUPPORT. Bit lemmas of the encoding forms (30_encoding.md R101, R106): what each bit of an encoded
word is, that each field is read back from it, and that a word whose reserved bits are 0 is
assembled again from its fields. -/

namespace Sys2Proof.Machine

open Sys2Proof

/-! ## Opcodes -/

@[simp] theorem Opcode.ofByte_byte (op : Opcode) : Opcode.ofByte op.byte = some op := by
  cases op <;> rfl

theorem Opcode.byte_of_ofByte {b : Byte} {op : Opcode} (h : Opcode.ofByte b = some op) :
    op.byte = b := by
  have := List.find?_some h
  simpa using this

/-! ## Bits of encoded words -/

theorem header_getLsbD (op : Opcode) (aux : Byte) (imm : Half) (i : Nat) :
    (header op aux imm).getLsbD i =
      if i < 16 then imm.getLsbD i
      else if i - 16 < 8 then aux.getLsbD (i - 16) else op.byte.getLsbD (i - 16 - 8) := by
  have h := BitVec.getLsbD_append (x := op.byte ++ aux) (y := imm) (i := i)
  rw [BitVec.getLsbD_append (x := op.byte) (y := aux)] at h
  exact h

theorem idWord_getLsbD (msg src : Half) (i : Nat) :
    (idWord msg src).getLsbD i = if i < 16 then src.getLsbD i else msg.getLsbD (i - 16) :=
  BitVec.getLsbD_append

theorem append_half_getLsbD (hi lo : Half) (i : Nat) :
    BitVec.getLsbD (w := 32) (hi ++ lo) i = if i < 16 then lo.getLsbD i else hi.getLsbD (i - 16) :=
  BitVec.getLsbD_append

theorem append_word_getLsbD (hi lo : Word) (i : Nat) :
    BitVec.getLsbD (w := 64) (hi ++ lo) i = if i < 32 then lo.getLsbD i else hi.getLsbD (i - 32) :=
  BitVec.getLsbD_append

theorem append_byte_getLsbD (a b c d : Byte) (i : Nat) :
    BitVec.getLsbD (w := 32) (a ++ b ++ c ++ d) i =
      if i < 8 then d.getLsbD i else if i - 8 < 8 then c.getLsbD (i - 8)
      else if i - 8 - 8 < 8 then b.getLsbD (i - 8 - 8) else a.getLsbD (i - 8 - 8 - 8) := by
  have h := BitVec.getLsbD_append (x := a ++ b ++ c) (y := d) (i := i)
  rw [BitVec.getLsbD_append (x := a ++ b) (y := c), BitVec.getLsbD_append (x := a) (y := b)] at h
  exact h

theorem f3_getLsbD (f : Frame) (i : Nat) :
    f.f3.getLsbD i =
      if i < 8 then f.ty.getLsbD i else if i - 8 < 8 then f.dlc.getLsbD (i - 8) else false := by
  have h := BitVec.getLsbD_append (x := (0#16) ++ f.dlc) (y := f.ty) (i := i)
  rw [BitVec.getLsbD_append (x := 0#16) (y := f.dlc), BitVec.getLsbD_zero] at h
  exact h

theorem record_getLsbD (dlc : BitVec 4) (wire : Half) (i : Nat) :
    BitVec.getLsbD (w := 32) (0#12 ++ dlc ++ wire) i =
      if i < 16 then wire.getLsbD i else if i - 16 < 4 then dlc.getLsbD (i - 16) else false := by
  have h := BitVec.getLsbD_append (x := (0#12) ++ dlc) (y := wire) (i := i)
  rw [BitVec.getLsbD_append (x := 0#12) (y := dlc)] at h
  simpa using h

/-! ## Reading a field back -/

@[simp] theorem hdrOpc_header (op : Opcode) (aux : Byte) (imm : Half) :
    hdrOpc (header op aux imm) = op.byte := by
  refine BitVec.eq_of_getLsbD_eq fun i hi => ?_
  have h1 : ¬(24 + i < 16) := by omega
  have h2 : ¬(24 + i - 16 < 8) := by omega
  have h3 : 24 + i - 16 - 8 = i := by omega
  simp [hdrOpc, header_getLsbD, h1, h2, h3, hi]

@[simp] theorem hdrAux_header (op : Opcode) (aux : Byte) (imm : Half) :
    hdrAux (header op aux imm) = aux := by
  refine BitVec.eq_of_getLsbD_eq fun i hi => ?_
  simp [hdrAux, header_getLsbD, hi]

@[simp] theorem hdrImm_header (op : Opcode) (aux : Byte) (imm : Half) :
    hdrImm (header op aux imm) = imm := by
  refine BitVec.eq_of_getLsbD_eq fun i hi => ?_
  simp [hdrImm, header_getLsbD, hi]

@[simp] theorem hiHalf_idWord (msg src : Half) : hiHalf (idWord msg src) = msg := by
  refine BitVec.eq_of_getLsbD_eq fun i hi => ?_
  simp [hiHalf, idWord_getLsbD, hi]

@[simp] theorem loHalf_idWord (msg src : Half) : loHalf (idWord msg src) = src := by
  refine BitVec.eq_of_getLsbD_eq fun i hi => ?_
  simp [loHalf, idWord_getLsbD, hi]

@[simp] theorem hiHalf_append (hi lo : Half) : hiHalf (hi ++ lo) = hi := hiHalf_idWord hi lo

@[simp] theorem loHalf_append (hi lo : Half) : loHalf (hi ++ lo) = lo := loHalf_idWord hi lo

@[simp] theorem byteOperand_byteWord (b : Byte) : byteOperand (byteWord b) = .ok b := by
  have h1 : (byteWord b).extractLsb' 8 24 = 0#24 := by
    refine BitVec.eq_of_getLsbD_eq fun i hi => ?_
    simp [byteWord]
  have h2 : (byteWord b).extractLsb' 0 8 = b := by
    refine BitVec.eq_of_getLsbD_eq fun i hi => ?_
    simp [byteWord, hi]
    omega
  simp [byteOperand, h1, h2]

@[simp] theorem halfOperand_halfWord (h : Half) : halfOperand (halfWord h) = .ok h := by
  have h1 : hiHalf (halfWord h) = 0#16 := by
    refine BitVec.eq_of_getLsbD_eq fun i hi => ?_
    simp [hiHalf, halfWord]
  have h2 : loHalf (halfWord h) = h := by
    refine BitVec.eq_of_getLsbD_eq fun i hi => ?_
    simp [loHalf, halfWord, hi]
    omega
  simp [halfOperand, h1, h2]

theorem data_append_words (d : BitVec 64) :
    (d.extractLsb' 32 32 ++ d.extractLsb' 0 32 : BitVec 64) = d := by
  refine BitVec.eq_of_getLsbD_eq fun i hi => ?_
  rw [append_word_getLsbD]
  split
  · simp [*]
  · have h : 32 + (i - 32) = i := by omega
    simp [h]
    omega

@[simp] theorem frameOperand_words (f : Frame) : frameOperand f.f0 f.f1 f.f2 f.f3 = .ok f := by
  have h1 : hiHalf f.f3 = 0#16 := by
    refine BitVec.eq_of_getLsbD_eq fun i hi => ?_
    have a : ¬(16 + i < 8) := by omega
    have b : ¬(16 + i - 8 < 8) := by omega
    simp [hiHalf, f3_getLsbD, a, b]
  have h2 : f.f3.extractLsb' 0 8 = f.ty := by
    refine BitVec.eq_of_getLsbD_eq fun i hi => ?_
    simp [f3_getLsbD, hi]
  have h3 : f.f3.extractLsb' 8 8 = f.dlc := by
    refine BitVec.eq_of_getLsbD_eq fun i hi => ?_
    simp [f3_getLsbD, hi]
  have h4 : (f.f1 ++ f.f0 : BitVec 64) = f.data := data_append_words f.data
  simp [frameOperand, h1, h2, h3, h4, Frame.f2]

theorem recordOperand_words (r : RxRecord) :
    recordOperand (0#12 ++ r.dlc ++ r.wire) (r.data.extractLsb' 0 32) (r.data.extractLsb' 32 32) =
      .ok r := by
  have h1 : BitVec.extractLsb' 20 12 (n := 32) (0#12 ++ r.dlc ++ r.wire) = 0#12 := by
    refine BitVec.eq_of_getLsbD_eq fun i hi => ?_
    have a : ¬(20 + i < 16) := by omega
    have b : ¬(20 + i - 16 < 4) := by omega
    rw [BitVec.getLsbD_extractLsb', record_getLsbD]
    simp [a, b]
  have h2 : BitVec.extractLsb' 16 4 (n := 32) (0#12 ++ r.dlc ++ r.wire) = r.dlc := by
    refine BitVec.eq_of_getLsbD_eq fun i hi => ?_
    rw [BitVec.getLsbD_extractLsb', record_getLsbD]
    simp [hi]
  have h3 : loHalf (0#12 ++ r.dlc ++ r.wire) = r.wire := by
    refine BitVec.eq_of_getLsbD_eq fun i hi => ?_
    rw [loHalf, BitVec.getLsbD_extractLsb', record_getLsbD]
    simp [hi]
  rw [recordOperand, if_pos h1, h2, h3, data_append_words]

@[simp] theorem recordOperands_words (rs : List RxRecord) :
    recordOperands (rs.flatMap RxRecord.words) = .ok rs := by
  induction rs with
  | nil => rfl
  | cons r rs ih =>
    simp only [List.flatMap_cons, RxRecord.words, List.cons_append, List.nil_append,
      recordOperands, recordOperand_words]
    rw [ih]

@[simp] theorem RxRecord.words_length (r : RxRecord) : r.words.length = 3 := rfl

theorem records_length (rs : List RxRecord) :
    (rs.flatMap RxRecord.words).length = 3 * rs.length := by
  induction rs with
  | nil => rfl
  | cons r rs ih => simp [RxRecord.words] at ih ⊢; omega

/-! ## Assembling a word from its fields again -/

theorem idWord_halves (w : Word) : idWord (hiHalf w) (loHalf w) = w := by
  refine BitVec.eq_of_getLsbD_eq fun i hi => ?_
  rw [idWord_getLsbD]
  split
  · simp [loHalf, *]
  · have h : 16 + (i - 16) = i := by omega
    simp [hiHalf, h]
    omega

theorem header_fields {h : Word} {op : Opcode} (hop : Opcode.ofByte (hdrOpc h) = some op) :
    header op (hdrAux h) (hdrImm h) = h := by
  have hb := Opcode.byte_of_ofByte hop
  refine BitVec.eq_of_getLsbD_eq fun i hi => ?_
  rw [header_getLsbD, hb]
  split
  · simp [hdrImm, *]
  · split
    · have e : 16 + (i - 16) = i := by omega
      simp [hdrAux, e]
      omega
    · have e : 24 + (i - 16 - 8) = i := by omega
      simp [hdrOpc, e]
      omega

theorem byteWord_of_byteOperand {w : Word} {b : Byte} (h : byteOperand w = .ok b) :
    byteWord b = w := by
  unfold byteOperand at h
  split at h
  · rename_i h0
    cases h
    refine BitVec.eq_of_getLsbD_eq fun i hi => ?_
    by_cases h8 : i < 8
    · simp [byteWord, h8, hi]
    · have hz : (w.extractLsb' 8 24).getLsbD (i - 8) = false := by rw [h0]; simp
      have e : 8 + (i - 8) = i := by omega
      have e' : i - 8 < 24 := by omega
      simp [e, e'] at hz
      simp [byteWord, h8, hz]
  · cases h

theorem halfWord_of_halfOperand {w : Word} {x : Half} (h : halfOperand w = .ok x) :
    halfWord x = w := by
  unfold halfOperand at h
  split at h
  · rename_i h0
    cases h
    refine BitVec.eq_of_getLsbD_eq fun i hi => ?_
    by_cases h8 : i < 16
    · simp [halfWord, loHalf, h8, hi]
    · have hz : (hiHalf w).getLsbD (i - 16) = false := by rw [h0]; simp
      have e : 16 + (i - 16) = i := by omega
      have e' : i - 16 < 16 := by omega
      simp [hiHalf, e, e'] at hz
      simp [halfWord, loHalf, h8, hz]
  · cases h

/-- A frame operand that is read assembles to the words it was read from. -/
theorem words_of_frameOperand {w0 w1 w2 w3 : Word} {f : Frame}
    (h : frameOperand w0 w1 w2 w3 = .ok f) : f.words = [w0, w1, w2, w3] := by
  unfold frameOperand at h
  split at h
  · rename_i h0
    cases h
    have e0 : BitVec.extractLsb' 0 32 (w1 ++ w0 : BitVec 64) = w0 := by
      refine BitVec.eq_of_getLsbD_eq fun i hi => ?_
      rw [BitVec.getLsbD_extractLsb', append_word_getLsbD]
      simp [hi]
    have e1 : BitVec.extractLsb' 32 32 (w1 ++ w0 : BitVec 64) = w1 := by
      refine BitVec.eq_of_getLsbD_eq fun i hi => ?_
      rw [BitVec.getLsbD_extractLsb', append_word_getLsbD]
      simp [hi]
    have e3 : (0#16 ++ w3.extractLsb' 8 8 ++ w3.extractLsb' 0 8 : Word) = w3 := by
      refine BitVec.eq_of_getLsbD_eq fun i hi => ?_
      have hb := f3_getLsbD { sourceId := 0, msgId := 0, ty := w3.extractLsb' 0 8,
                              dlc := w3.extractLsb' 8 8, data := 0 } i
      refine hb.trans ?_
      have hz : (hiHalf w3).getLsbD (i - 16) = false := by rw [h0]; simp
      by_cases h8 : i < 8
      · simp [h8]
      · by_cases h16 : i - 8 < 8
        · have e : 8 + (i - 8) = i := by omega
          simp [h8, h16, e]
        · have e : 16 + (i - 16) = i := by omega
          have e' : i - 16 < 16 := by omega
          simp [hiHalf, e, e'] at hz
          simp [h8, h16, hz]
    simp only [Frame.words, Frame.f0, Frame.f1, Frame.f2, Frame.f3, e0, e1, e3, idWord_halves]
  · cases h

/-- On fields in range the wire identifier is a sum (R120, R140). -/
theorem wireOf_toNat {ty : Byte} {msg src : Half} (hs : src.toNat ≤ 15) (hm : msg.toNat ≤ 63)
    (ht : ty.toNat ≤ 1) :
    (wireOf ty msg src).toNat = msg.toNat * 32 + ty.toNat * 16 + src.toNat := by
  have e1 : (msg <<< 5).toNat = msg.toNat <<< 5 := by
    rw [BitVec.toNat_shiftLeft, Nat.mod_eq_of_lt]; rw [Nat.shiftLeft_eq]; omega
  have e2 : (ty.setWidth 16 <<< 4).toNat = ty.toNat <<< 4 := by
    have h : ty.toNat % 2 ^ 16 = ty.toNat := by omega
    rw [BitVec.toNat_shiftLeft, BitVec.toNat_setWidth, h, Nat.mod_eq_of_lt]
    rw [Nat.shiftLeft_eq]; omega
  have h4 : ty.toNat <<< 4 < 2 ^ 5 := by rw [Nat.shiftLeft_eq]; omega
  have e3 : msg.toNat <<< 5 ||| ty.toNat <<< 4 = (msg.toNat * 2 + ty.toNat) <<< 4 := by
    rw [← Nat.shiftLeft_add_eq_or_of_lt h4]
    simp only [Nat.shiftLeft_eq]; omega
  rw [wireOf, BitVec.toNat_or, BitVec.toNat_or, e1, e2, e3,
    ← Nat.shiftLeft_add_eq_or_of_lt (by omega : src.toNat < 2 ^ 4), Nat.shiftLeft_eq]
  omega

/-- A record operand that is read assembles to the words it was read from. -/
theorem words_of_recordOperand {r0 r1 r2 : Word} {r : RxRecord}
    (h : recordOperand r0 r1 r2 = .ok r) : r.words = [r0, r1, r2] := by
  unfold recordOperand at h
  split at h
  · rename_i h0
    cases h
    have e0 : BitVec.extractLsb' 0 32 (r2 ++ r1 : BitVec 64) = r1 := by
      refine BitVec.eq_of_getLsbD_eq fun i hi => ?_
      rw [BitVec.getLsbD_extractLsb', append_word_getLsbD]
      simp [hi]
    have e1 : BitVec.extractLsb' 32 32 (r2 ++ r1 : BitVec 64) = r2 := by
      refine BitVec.eq_of_getLsbD_eq fun i hi => ?_
      rw [BitVec.getLsbD_extractLsb', append_word_getLsbD]
      simp [hi]
    have e3 : (0#12 ++ r0.extractLsb' 16 4 ++ loHalf r0 : Word) = r0 := by
      refine BitVec.eq_of_getLsbD_eq fun i hi => ?_
      rw [record_getLsbD]
      have hz : (r0.extractLsb' 20 12).getLsbD (i - 20) = false := by rw [h0]; simp
      by_cases h8 : i < 16
      · simp [h8, loHalf]
      · by_cases h16 : i - 16 < 4
        · have e : 16 + (i - 16) = i := by omega
          simp [h8, h16, e]
        · have e : 20 + (i - 20) = i := by omega
          have e' : i - 20 < 12 := by omega
          simp [e, e'] at hz
          simp [h8, h16, hz]
    simp only [RxRecord.words, e0, e1, e3]
  · cases h

theorem words_of_recordOperands {ws : List Word} {rs : List RxRecord}
    (h : recordOperands ws = .ok rs) : rs.flatMap RxRecord.words = ws := by
  induction ws using recordOperands.induct generalizing rs with
  | case1 => cases h; rfl
  | case2 r0 r1 r2 rest r rs' hrs hr ih =>
    simp only [recordOperands, hr, hrs] at h
    cases h
    simp [words_of_recordOperand hr, ih hrs]
  | case3 r0 r1 r2 rest e h1 ih => simp [recordOperands, h1] at h
  | case4 r0 r1 r2 rest e h1 h2 ih =>
    rw [recordOperands, h1] at h
    split at h <;> simp_all
  | case5 ws h0 h3 => simp [recordOperands] at h

/-- A field that reaches up to bit 31 is 0 exactly where its mask meets no bit of the word. -/
theorem top_field_eq_zero_iff {lo n : Nat} (w m : Word) (hn : lo + n = 32)
    (hm : ∀ i, i < 32 → m.getLsbD i = decide (lo ≤ i)) :
    w.extractLsb' lo n = 0#n ↔ w &&& m = 0#32 := by
  constructor
  · intro h
    refine BitVec.eq_of_getLsbD_eq fun i hi => ?_
    by_cases hlo : lo ≤ i
    · have e : lo + (i - lo) = i := by omega
      have hb := congrArg (fun v => v.getLsbD (i - lo)) h
      have hlt : i - lo < n := by omega
      simp [hlt, e] at hb
      simp [hb]
    · simp [hm i hi, hlo]
  · intro h
    refine BitVec.eq_of_getLsbD_eq fun i hi => ?_
    have hb := congrArg (fun v => v.getLsbD (lo + i)) h
    have hlt : lo + i < 32 := by omega
    simp [hm _ hlt] at hb
    simp [hb]

/-! ## Response words (R110, R111) -/

theorem respWord_kind (kind st : Byte) (v : Half) (ws : List Word) :
    respKind (respWord kind st v :: ws) = kind := by
  refine BitVec.eq_of_getLsbD_eq fun i hi => ?_
  have e := BitVec.getLsbD_append (x := kind ++ st) (y := v) (i := 24 + i)
  have h1 : ¬(24 + i < 16) := by omega
  have h2 : ¬(24 + i - 16 < 8) := by omega
  have h3 : 24 + i - 16 - 8 = i := by omega
  have h4 : 24 + i < 32 := by omega
  have e2 := BitVec.getLsbD_append (x := kind) (y := st) (i := 24 + i - 16)
  rw [if_neg h2, h3] at e2
  replace e := e.trans ((if_neg h1).trans e2)
  simpa only [respKind, List.headD_cons, respWord, BitVec.getLsbD_extractLsb', hi,
    decide_true, Bool.true_and] using e

theorem respWord_status (kind st : Byte) (v : Half) (ws : List Word) :
    respStatus (respWord kind st v :: ws) = st := by
  refine BitVec.eq_of_getLsbD_eq fun i hi => ?_
  have e := BitVec.getLsbD_append (x := kind ++ st) (y := v) (i := 16 + i)
  have h1 : ¬(16 + i < 16) := by omega
  have h2 : 16 + i - 16 < 8 := by omega
  have h3 : 16 + i - 16 = i := by omega
  have e2 := BitVec.getLsbD_append (x := kind) (y := st) (i := 16 + i - 16)
  replace e2 := e2.trans (if_pos h2)
  have h5 : st.getLsbD (16 + i - 16) = st.getLsbD i := by rw [h3]
  replace e2 := e2.trans h5
  replace e := e.trans ((if_neg h1).trans e2)
  simpa only [respStatus, List.headD_cons, respWord, BitVec.getLsbD_extractLsb', hi,
    decide_true, Bool.true_and] using e

@[simp] theorem respKind_doneWords (st : Status) (v : Half) (ws : List Word) :
    respKind (doneWords st v ws) = 0x00 := respWord_kind _ _ _ _

@[simp] theorem respStatus_doneWords (st : Status) (v : Half) (ws : List Word) :
    respStatus (doneWords st v ws) = st.code := respWord_status _ _ _ _

@[simp] theorem respKind_calloutHandlerWords (h : Handler) (f : Frame) :
    respKind (calloutHandlerWords h f) = 0x01 := respWord_kind _ _ _ _

@[simp] theorem respKind_calloutAckWords (e : AckEntry) (msg acker : Half) (r : AckReason)
    (st : Byte) : respKind (calloutAckWords e msg acker r st) = 0x02 := respWord_kind _ _ _ _

end Sys2Proof.Machine
end

