-- ==== Sys2Proof/Laws/Queue.lean ====
section
/-! SUPPORT. The priority queue's order functions (42_pqueue.md R172): which entry sel picks, that
removing it loses nothing else, and that retie only reorders. -/

namespace Sys2Proof.Machine

open Sys2Proof

theorem insertAtPos_perm {α : Type} (k : Nat) (x : α) (xs : List α) :
    (insertAtPos k x xs).Perm (x :: xs) := by
  induction xs generalizing k with
  | nil => simp [insertAtPos]
  | cons y ys ih =>
    cases k with
    | zero => exact .refl _
    | succ k => exact ((ih k).cons y).trans (.swap x y ys)

theorem shuffle_perm {α : Type} (choice : Nat → Nat) (xs : List α) :
    (shuffle choice xs).Perm xs := by
  induction xs with
  | nil => exact .refl _
  | cons x xs ih => exact (insertAtPos_perm _ x _).trans (ih.cons x)

theorem retie_perm (tie : PqTie) (draw : Nat) (xs : List QEntry) :
    (retie tie draw xs).Perm xs := by
  cases tie
  · exact .refl _
  · exact shuffle_perm _ xs

@[simp] theorem retie_length (tie : PqTie) (draw : Nat) (xs : List QEntry) :
    (retie tie draw xs).length = xs.length := (retie_perm tie draw xs).length_eq

@[simp] theorem retie_stable (draw : Nat) (xs : List QEntry) : retie .stable draw xs = xs := rfl

@[simp] theorem retie_nil (tie : PqTie) (draw : Nat) : retie tie draw [] = [] := by
  cases tie <;> rfl

@[simp] theorem sel_nil : sel [] = none := rfl

@[simp] theorem withoutSel_nil : withoutSel [] = [] := rfl

/-- A non-empty list of entries has one whose key is least. -/
theorem exists_least_key (xs : List QEntry) (h : xs ≠ []) :
    ∃ e ∈ xs, ∀ x ∈ xs, e.key.toNat ≤ x.key.toNat := by
  induction xs with
  | nil => exact absurd rfl h
  | cons y ys ih =>
    by_cases hy : ys = []
    · subst hy; exact ⟨y, by simp, by simp⟩
    · obtain ⟨e, he, hmin⟩ := ih hy
      rcases Nat.le_total e.key.toNat y.key.toNat with hle | hle
      · exact ⟨e, by simp [he], by simpa [hle] using hmin⟩
      · refine ⟨y, by simp, ?_⟩
        intro x hx
        rcases List.mem_cons.1 hx with rfl | hx
        · exact Nat.le_refl _
        · exact Nat.le_trans hle (hmin x hx)

/-- Where sel picks an entry, the list splits around it, and without it the rest is left. -/
theorem sel_split {xs : List QEntry} {e : QEntry} (h : sel xs = some e) :
    ∃ l r, xs = l ++ e :: r ∧ withoutSel xs = l ++ r ∧
      (∀ x ∈ l, ∃ y ∈ xs, y.key.toNat < x.key.toNat) ∧
      (∀ x ∈ xs, e.key.toNat ≤ x.key.toNat) := by
  simp only [sel, Option.bind_eq_some_iff] at h
  obtain ⟨i, hi, he⟩ := h
  have hi' := List.findIdx?_eq_some_iff_getElem.1 hi
  obtain ⟨hlt, hall, hbefore⟩ := hi'
  have hei : xs[i] = e := by simpa [List.getElem?_eq_getElem hlt] using he
  refine ⟨xs.take i, xs.drop (i + 1), ?_, ?_, ?_, ?_⟩
  · rw [← hei]; simp
  · simp [withoutSel, hi, List.eraseIdx_eq_take_drop_succ]
  · intro x hx
    obtain ⟨j, hj, rfl⟩ := List.mem_iff_getElem.1 hx
    have hji : j < i := by simp at hj; omega
    have := hbefore j hji
    simp only [List.all_eq_true, decide_eq_true_eq] at this
    push Not at this
    obtain ⟨y, hy, hlt'⟩ := this
    exact ⟨y, hy, by simpa using hlt'⟩
  · rw [hei] at hall
    simpa using hall

/-- The queue is the selected entry and the rest, in some order. -/
theorem sel_perm {xs : List QEntry} {e : QEntry} (h : sel xs = some e) :
    xs.Perm (e :: withoutSel xs) := by
  obtain ⟨l, r, hxs, hw, -⟩ := sel_split h
  rw [hw, hxs]
  exact List.perm_middle

theorem sel_isSome {xs : List QEntry} (h : xs ≠ []) : ∃ e, sel xs = some e := by
  obtain ⟨e, he, hmin⟩ := exists_least_key xs h
  have : (selIdx xs).isSome := by
    unfold selIdx
    rw [List.findIdx?_isSome, List.any_eq_true]
    exact ⟨e, he, by simpa using hmin⟩
  obtain ⟨i, hi⟩ := Option.isSome_iff_exists.1 this
  have hlt := (List.findIdx?_eq_some_iff_getElem.1 hi).1
  exact ⟨xs[i], by simp [sel, hi, List.getElem?_eq_getElem hlt]⟩

@[simp] theorem sel_eq_none {xs : List QEntry} : sel xs = none ↔ xs = [] := by
  constructor
  · intro h
    by_contra hne
    obtain ⟨e, he⟩ := sel_isSome hne
    rw [h] at he; cases he
  · rintro rfl; rfl

theorem withoutSel_length {xs : List QEntry} {e : QEntry} (h : sel xs = some e) :
    (withoutSel xs).length + 1 = xs.length := by
  simpa using (sel_perm h).length_eq.symm

end Sys2Proof.Machine
end

