-- ==== Sys2Proof/Laws/Ops.lean ====
section
/-! SUPPORT. For each shared operation one lemma that says once everything it can do; proofs about
the meanings cite these instead of unfolding the operation. -/

namespace Sys2Proof.Machine

open Sys2Proof

/-! ## The CAM lookup (43_dispatch.md R203) -/

/-- A lookup answers with an entry of the table that has the message id. -/
theorem findReg_mem {dup : DupLookup} {draw : Nat} {reg : List RegEntry} {m : Half} {e : RegEntry}
    (h : findReg dup draw reg m = some e) : e ∈ reg ∧ e.msgId = m := by
  have : e ∈ reg.filter fun e => e.msgId = m := by
    cases dup
    · exact List.mem_of_getLast? h
    · exact List.mem_of_getElem? h
  simpa using this

/-- Where a lookup's entry stands in the table: under Newest no later entry has the id. -/
theorem findReg_split {dup : DupLookup} {draw : Nat} {reg : List RegEntry} {m : Half}
    {e : RegEntry} (h : findReg dup draw reg m = some e) :
    ∃ l later, reg = l ++ e :: later ∧ e.msgId = m ∧
      (dup = .newest → ∀ x ∈ later, x.msgId ≠ m) := by
  obtain ⟨hmem, hid⟩ := findReg_mem h
  cases dup with
  | any =>
    obtain ⟨l, later, hl⟩ := List.append_of_mem hmem
    exact ⟨l, later, hl, hid, by simp⟩
  | newest =>
    obtain ⟨ys, hy⟩ := List.getLast?_eq_some_iff.1 h
    obtain ⟨l₁, l₂, rfl, -, hlast⟩ := List.filter_eq_append_iff.1 hy
    obtain ⟨l, later, rfl, -, -, hnil⟩ := List.filter_eq_cons_iff.1 hlast
    refine ⟨l₁ ++ l, later, by simp, hid, fun _ x hx hm => ?_⟩
    exact List.filter_eq_nil_iff.1 hnil x hx (by simp [hm])

/-- A lookup misses exactly where no entry has the message id. -/
theorem findReg_none {dup : DupLookup} {draw : Nat} {reg : List RegEntry} {m : Half} :
    findReg dup draw reg m = none ↔ ∀ e ∈ reg, e.msgId ≠ m := by
  have key : findReg dup draw reg m = none ↔ (reg.filter fun e => e.msgId = m) = [] := by
    cases dup
    · simp [findReg]
    · simp only [findReg, List.getElem?_eq_none_iff]
      constructor
      · intro h
        by_contra hne
        have := List.length_pos_iff.2 hne
        exact absurd (Nat.mod_lt (Config.dupDraw draw) this) (Nat.not_lt.2 h)
      · intro h; simp [h]
  rw [key]
  simp

/-! ## Events and identity (60_exceptions.md R352, 45_rxtx.md R260) -/

/-- A raise changes the event queue only, and only where it has room. -/
theorem State.evRaise_eq (s : State) (id d : Half) :
    s.evRaise id d =
      { s with evq := if s.evq.length < s.params.evqCapacity
          then s.evq ++ [{ id := id, data := d }] else s.evq } := by
  unfold State.evRaise
  split <;> rfl

theorem badEventIds_eq_true {rx tx fe : Half} :
    badEventIds rx tx fe = true ↔
      (rx = 0xFFFF ∨ tx = 0xFFFF ∨ fe = 0xFFFF ∨ rx = tx ∨ rx = fe ∨ tx = fe) := by
  simp only [badEventIds, Bool.or_eq_true, decide_eq_true_eq, or_assoc]
  exact Iff.rfl

theorem validFrame_eq_false {f : Frame} :
    validFrame f = false ↔
      (f.sourceId.toNat > 15 ∨ f.msgId.toNat > 63 ∨ f.ty.toNat > 1 ∨ f.dlc.toNat > 8) := by
  rw [Bool.eq_false_iff]
  simp only [validFrame, ne_eq, Bool.and_eq_true, decide_eq_true_eq]
  omega

/-- The fail count saturates (R37). -/
theorem satIncr_toNat (n : Half) : (satIncr n).toNat = min (n.toNat + 1) 0xFFFF := by
  have hlt := n.isLt
  unfold satIncr
  split
  · subst n; decide
  · rename_i h
    have : n.toNat ≠ 0xFFFF := fun e => h (BitVec.eq_of_toNat_eq e)
    rw [BitVec.toNat_add]; simp; omega

/-! ## TX enqueue and ACK reply (45_rxtx.md R265, 44_ack.md R234) -/

@[simp] theorem State.txEnqueue_blk (s : State) (f : Frame) :
    (s.txEnqueue f).blk = { s.blk with txq := s.blk.txq ++ [f] } := by
  simp [State.txEnqueue]

@[simp] theorem State.txEnqueue_evq (s : State) (f : Frame) :
    (s.txEnqueue f).evq =
      if s.evq.length < s.params.evqCapacity then
        s.evq ++ [{ id := s.blk.txEventId, data := 0 }]
      else s.evq := by
  simp [State.txEnqueue]

@[simp] theorem State.txEnqueue_params (s : State) (f : Frame) :
    (s.txEnqueue f).params = s.params := by simp [State.txEnqueue]

@[simp] theorem State.txEnqueue_busLog (s : State) (f : Frame) :
    (s.txEnqueue f).busLog = s.busLog := by simp [State.txEnqueue]

@[simp] theorem State.txEnqueue_turns (s : State) (f : Frame) :
    (s.txEnqueue f).turns = s.turns := by simp [State.txEnqueue]

@[simp] theorem State.txEnqueue_turnCycle (s : State) (f : Frame) :
    (s.txEnqueue f).turnCycle = s.turnCycle := by simp [State.txEnqueue]

@[simp] theorem State.txEnqueue_hostOut (s : State) (f : Frame) :
    (s.txEnqueue f).hostOut = s.hostOut := by simp [State.txEnqueue]

@[simp] theorem State.txEnqueue_isrOut (s : State) (f : Frame) :
    (s.txEnqueue f).isrOut = s.isrOut := by simp [State.txEnqueue]

/-- The ACK-reply step does nothing, loses the reply, or enqueues it. -/
theorem State.ackReply_cases (s : State) (f : Frame) (st : Byte) :
    (critical s.blk f = false ∧ s.ackReply f st = s) ∨
    (critical s.blk f = true ∧ s.txFull = true ∧ s.ackReply f st = s.mark .ackDrop) ∨
    (critical s.blk f = true ∧ s.txFull = false ∧
      s.ackReply f st = s.txEnqueue (replyFrame s.blk.deviceId f.msgId st)) := by
  unfold State.ackReply
  cases hc : critical s.blk f <;> cases hf : s.txFull <;> simp

/-- The ACK-reply step changes at most the TX FIFO, the event queue and the sticky flags. -/
theorem State.ackReply_frame (s : State) (f : Frame) (st : Byte) :
    ∃ q ev m, s.ackReply f st = { s with blk.txq := q, evq := ev, blk.status := m } ∧
      (q = s.blk.txq ∨ ∃ g, q = s.blk.txq ++ [g]) ∧
      (ev = s.evq ∨ ev = s.evq ++ [{ id := s.blk.txEventId, data := 0 }]) ∧
      ∃ x, m = s.blk.status ||| x := by
  rcases s.ackReply_cases f st with ⟨-, e⟩ | ⟨-, -, e⟩ | ⟨-, -, e⟩ <;> rw [e]
  · exact ⟨_, _, _, rfl, .inl rfl, .inl rfl, 0#6, by simp⟩
  · exact ⟨_, _, _, rfl, .inl rfl, .inl rfl, _, rfl⟩
  · rw [State.txEnqueue, State.evRaise_eq]
    refine ⟨_, _, _, rfl, .inr ⟨_, rfl⟩, ?_, 0#6, by simp⟩
    simp only
    split
    · exact .inr rfl
    · exact .inl rfl

/-! ## Resolution (44_ack.md R235) -/

/-- An Ack frame matches nothing, or the oldest entry with its message id. -/
theorem State.resolve_cases (s : State) (f : Frame) :
    ((∀ e ∈ s.blk.ack, e.msgId.setWidth 16 ≠ f.msgId) ∧ s.resolve f = s.mark .ackNomatch) ∨
    ∃ l e r, s.blk.ack = l ++ e :: r ∧ e.msgId.setWidth 16 = f.msgId ∧
      (∀ x ∈ l, x.msgId.setWidth 16 ≠ f.msgId) ∧
      s.resolve f = ({ s with blk.ack := l ++ r } : State).enterCallout .ackCb
        (calloutAckWords e f.msgId f.sourceId .acked (u8Field f.data 0)) := by
  cases hi : ackIdx s.blk.ack f.msgId with
  | none =>
    refine .inl ⟨?_, by simp [State.resolve, hi]⟩
    simpa [ackIdx, List.findIdx?_eq_none_iff] using hi
  | some i =>
    obtain ⟨hlt, hm, hb⟩ := List.findIdx?_eq_some_iff_getElem.1 hi
    refine .inr ⟨s.blk.ack.take i, s.blk.ack[i], s.blk.ack.drop (i + 1), by simp,
      by simpa using hm, ?_, ?_⟩
    · intro x hx
      obtain ⟨j, hj, rfl⟩ := List.mem_iff_getElem.1 hx
      have hji : j < i := by simp at hj; omega
      simpa using hb j hji
    · simp [State.resolve, hi, List.getElem?_eq_getElem hlt, List.eraseIdx_eq_take_drop_succ]

/-! ## Data-frame dispatch (45_rxtx.md R275) -/

/-- A Data frame goes out to a handler, or is answered by the ACK-reply step with status ok. -/
theorem State.dispatch_cases (s : State) (f : Frame) :
    (∃ h, s.handlerFor f.msgId = some h ∧
      s.dispatch f = ({ s.nextDraw with blk.engCur := f } : State).enterCallout .handler
        (calloutHandlerWords h f)) ∨
    (s.handlerFor f.msgId = none ∧ s.dispatch f = s.nextDraw.ackReply f 0x00) := by
  cases h : s.handlerFor f.msgId with
  | none => exact .inr ⟨rfl, by simp [State.dispatch, h]⟩
  | some x => exact .inl ⟨x, rfl, by simp [State.dispatch, h]⟩

/-! ## TX processing (45_rxtx.md R266) -/

/-- TX processing finds nothing, sends the head, or is refused; a refusal re-raises or stalls. -/
theorem State.txProcess_cases (s : State) :
    (s.blk.txq = [] ∧ s.txProcess = s) ∨
    ∃ f rest, s.blk.txq = f :: rest ∧
      ((s.nextAnswer = .ok ∧ s.txProcess = s.useAnswer.txAccepted f) ∨
       (s.nextAnswer = .busy ∧ s.txProcess = s.useAnswer.txRefused)) := by
  cases hq : s.blk.txq with
  | nil => exact .inl ⟨rfl, by simp [State.txProcess, hq]⟩
  | cons f rest =>
    refine .inr ⟨f, rest, rfl, ?_⟩
    cases ha : s.nextAnswer
    · exact .inl ⟨rfl, by simp [State.txProcess, hq, ha]⟩
    · exact .inr ⟨rfl, by simp [State.txProcess, hq, ha]⟩

theorem State.txRefused_cases (s : State) :
    ((s.blk.txRetryLimit = 0 ∨
        (satIncr s.blk.txFailCount).toNat < s.blk.txRetryLimit.toNat) ∧
      s.txRefused =
        ({ s with blk.txFailCount := satIncr s.blk.txFailCount } : State).evRaise
          s.blk.txEventId 0) ∨
    (s.blk.txRetryLimit ≠ 0 ∧
      s.blk.txRetryLimit.toNat ≤ (satIncr s.blk.txFailCount).toNat ∧
      s.txRefused =
        ({ s with blk.txFailCount := satIncr s.blk.txFailCount } : State).mark .txStall) := by
  unfold State.txRefused
  by_cases h : s.blk.txRetryLimit = 0 ∨
      (satIncr s.blk.txFailCount).toNat < s.blk.txRetryLimit.toNat
  · exact .inl ⟨h, if_pos h⟩
  · obtain ⟨h0, hlt⟩ := not_or.1 h
    exact .inr ⟨h0, Nat.le_of_not_lt hlt, if_neg h⟩

/-! ## Delivery of one received frame (45_rxtx.md R280) -/

theorem rxDeliver_cases (s : State) (n : Nat) (r : RxRecord) :
    (s.blk.rxq.length = s.blk.rxqCap.toNat ∧ rxDeliver (s, n) r = (s.mark .rxOverrun, n)) ∨
    (s.blk.rxq.length ≠ s.blk.rxqCap.toNat ∧
      rxDeliver (s, n) r =
        (s.setRxq (s.blk.rxq ++ [{ key := (recordFrame r).msgId, frame := recordFrame r }]),
          n + 1)) := by
  by_cases h : s.blk.rxq.length = s.blk.rxqCap.toNat
  · exact .inl ⟨h, by simp [rxDeliver, h]⟩
  · exact .inr ⟨h, by simp [rxDeliver, h]⟩

/-- Delivering any number of frames changes the RX queue, RX_OVERRUN and the draw count only; what
was queued stays queued. -/
theorem rxDeliver_fold_frame (rs : List RxRecord) (s : State) (n : Nat) :
    ∃ xs st d, (rs.foldl rxDeliver (s, n)).1 =
        { s with blk.rxq := xs, blk.status := st, draws := d } ∧
      (∃ new, xs.Perm (s.blk.rxq ++ new)) ∧
      (st = s.blk.status ∨ st = s.blk.status ||| 0b000001#6) := by
  induction rs generalizing s n with
  | nil => exact ⟨s.blk.rxq, s.blk.status, s.draws, rfl, ⟨[], by simp⟩, .inl rfl⟩
  | cons r rs ih =>
    rw [List.foldl_cons]
    rcases rxDeliver_cases s n r with ⟨-, e⟩ | ⟨-, e⟩ <;> rw [e]
    · obtain ⟨xs, st, d, h, h2, h3⟩ := ih (s.mark .rxOverrun) n
      refine ⟨xs, st, d, h, h2, .inr ?_⟩
      have hm : (s.mark .rxOverrun).blk.status = s.blk.status ||| 0b000001#6 := rfl
      rw [hm] at h3
      rcases h3 with h3 | h3
      · exact h3
      · rw [h3, BitVec.or_assoc, BitVec.or_self]
    · let q : QEntry := { key := (recordFrame r).msgId, frame := recordFrame r }
      obtain ⟨xs, st, d, h, ⟨new, h2⟩, h3⟩ := ih (s.setRxq (s.blk.rxq ++ [q])) (n + 1)
      refine ⟨xs, st, d, h, ⟨q :: new, ?_⟩, h3⟩
      have hp := (retie_perm s.params.pqTie s.draws (s.blk.rxq ++ [q])).append_right new
      rw [List.append_assoc] at hp
      exact h2.trans hp

/-! ## Engine steps (45_rxtx.md R270, R271) -/

/-- Everything one RX Engine step can do. -/
theorem rxStep_cases (s : State) :
    (s.blk.engRem = 0 ∧ rxStep s = s.rxFinish) ∨
    (s.blk.engRem ≠ 0 ∧ s.blk.rxq = [] ∧ rxStep s = (s.mark .rxShort).rxFinish) ∨
    ∃ e, s.blk.engRem ≠ 0 ∧ sel s.blk.rxq = some e ∧
      rxStep s =
        ({ s.setRxq (withoutSel s.blk.rxq) with
            blk.engRem := s.blk.engRem - 1 } : State).rxFrame e.frame := by
  by_cases h : s.blk.engRem = 0
  · exact .inl ⟨h, if_pos h⟩
  · cases hs : sel s.blk.rxq with
    | none =>
      refine .inr (.inl ⟨h, sel_eq_none.1 hs, ?_⟩)
      rw [rxStep, if_neg h, hs]
    | some e =>
      refine .inr (.inr ⟨e, h, rfl, ?_⟩)
      rw [rxStep, if_neg h, hs]

end Sys2Proof.Machine
end

