-- ==== Sys2Proof/Laws/Inv.lean ====
section
/-! SUPPORT. What each shared operation needs in order to keep the invariant of Safety.lean; a proof
about a whole step cites these, one for each operation the step runs. -/

namespace Sys2Proof.Machine

open Sys2Proof

variable {s : State}

/-- The invariant reads the block, the event queue, the bus log and the parameters only. -/
theorem Inv.of_eq {t : State} (h : Inv s) (hb : t.blk = s.blk) (he : t.evq = s.evq)
    (hl : t.busLog = s.busLog) (hp : t.params = s.params) : Inv t := by
  obtain ⟨⟩ := h
  constructor <;> simp only [hb, he, hl, hp] <;> assumption

theorem Inv.respondHost (h : Inv s) (ws : List Word) : Inv (s.respondHost ws) :=
  h.of_eq rfl rfl rfl rfl

theorem Inv.respondIsr (h : Inv s) (ws : List Word) : Inv (s.respondIsr ws) :=
  h.of_eq rfl rfl rfl rfl

theorem Inv.doneHost (h : Inv s) (st : Status) (v : Half) (ws : List Word) :
    Inv (s.doneHost st v ws) := h.of_eq rfl rfl rfl rfl

theorem Inv.doneIsr (h : Inv s) (st : Status) (v : Half) : Inv (s.doneIsr st v) :=
  h.of_eq rfl rfl rfl rfl

theorem Inv.raiseHost (h : Inv s) (st : Status) : Inv (s.raiseHost st) := h.of_eq rfl rfl rfl rfl

theorem Inv.raiseIsr (h : Inv s) (st : Status) : Inv (s.raiseIsr st) := h.of_eq rfl rfl rfl rfl

theorem Inv.raiseOn (h : Inv s) (p : Port) (st : Status) : Inv (s.raiseOn p st) := by
  cases p
  · exact h.raiseHost st
  · exact h.raiseIsr st

theorem Inv.nextDraw (h : Inv s) : Inv s.nextDraw := h.of_eq rfl rfl rfl rfl

theorem Inv.useAnswer (h : Inv s) : Inv s.useAnswer := h.of_eq rfl rfl rfl rfl

theorem Inv.mark (h : Inv s) (b : StatusBit) : Inv (s.mark b) := { h with }

/-- An event is raised only into a queue with room (R352). -/
theorem Inv.evRaise (h : Inv s) (id d : Half) : Inv (s.evRaise id d) := by
  unfold State.evRaise
  split
  · rename_i hlt
    exact { h with evqBound := by simpa using hlt }
  · exact h

/-- The RX queue may become any list that fits an initialised queue. -/
theorem Inv.setRxq (h : Inv s) (xs : List QEntry) (hi : s.blk.rxqInit = true)
    (hl : xs.length ≤ s.blk.rxqCap.toNat) : Inv (s.setRxq xs) :=
  { h with
    rxqBound := by simpa [State.setRxq] using hl
    rxqUninit := by intro h0; simp [State.setRxq, hi] at h0 }

/-- A valid frame may enter a TX FIFO that is not full (R47, R265). -/
theorem Inv.txEnqueue (h : Inv s) (f : Frame) (hv : validFrame f = true)
    (hf : s.txFull = false) : Inv (s.txEnqueue f) := by
  unfold State.txEnqueue
  refine Inv.evRaise (s := { s with blk.txq := s.blk.txq ++ [f] }) ?_ _ _
  refine { h with txqBound := ?_, txqValid := ?_ }
  · have := h.txqBound
    simp only [State.txFull, decide_eq_false_iff_not] at hf
    simp only [List.length_append, List.length_singleton]
    omega
  · intro g hg
    rcases List.mem_append.1 hg with hg | hg
    · exact h.txqValid g hg
    · rw [List.mem_singleton.1 hg]; exact hv

/-- The reply to a critical frame is a valid frame (R42, R234). -/
theorem replyFrame_valid {dev msg : Half} (hd : dev.toNat ≤ 15) (hm : msg.toNat ≤ 63) (st : Byte) :
    validFrame (replyFrame dev msg st) = true := by
  simp [validFrame, replyFrame, hd, hm]

theorem Inv.ackReply (h : Inv s) (hi : s.blk.init = true) (f : Frame) (st : Byte) :
    Inv (s.ackReply f st) := by
  rcases s.ackReply_cases f st with ⟨-, e⟩ | ⟨-, -, e⟩ | ⟨hc, hf, e⟩ <;> rw [e]
  · exact h
  · exact h.mark _
  · refine h.txEnqueue _ (replyFrame_valid (h.identity hi).1 ?_ st) hf
    simp only [critical, Bool.and_eq_true, decide_eq_true_eq] at hc
    exact hc.1.2

/-- A callout may be entered inside a batch, a handler's only in an RX batch (R346, R275). -/
theorem Inv.enterCallout (h : Inv s) (k : Callout) (ws : List Word) (hm : s.blk.engMode ≠ .idle)
    (hk : k = .handler → s.blk.engMode = .rx) : Inv (s.enterCallout k ws) :=
  { h with
    calloutInBatch := fun _ => hm
    handlerInRx := fun e => hk e }

theorem Inv.leaveCallout (h : Inv s) : Inv s.leaveCallout :=
  { h with
    calloutInBatch := fun e => absurd rfl e
    handlerInRx := fun e => by simp [State.leaveCallout] at e }

/-- The oldest matching request leaves the pending-ack table (R235). -/
theorem Inv.resolve (h : Inv s) (f : Frame) (hm : s.blk.engMode ≠ .idle) : Inv (s.resolve f) := by
  rcases s.resolve_cases f with ⟨-, e⟩ | ⟨l, x, r, hack, -, -, e⟩ <;> rw [e]
  · exact h.mark _
  · refine Inv.enterCallout (s := { s with blk.ack := l ++ r }) ?_ _ _ hm (by simp)
    refine { h with ackBound := ?_ }
    have := h.ackBound
    simp only [hack, List.length_append, List.length_cons] at this
    simp only [List.length_append]
    omega

/-- A dispatched Data frame (R275). -/
theorem Inv.dispatch (h : Inv s) (f : Frame) (hm : s.blk.engMode = .rx)
    (hi : s.blk.init = true) : Inv (s.dispatch f) := by
  rcases s.dispatch_cases f with ⟨x, -, e⟩ | ⟨-, e⟩ <;> rw [e]
  · refine Inv.enterCallout (s := { s.nextDraw with blk.engCur := f }) { h.nextDraw with } _ _ ?_ ?_
    · intro e0; simp [hm] at e0
    · intro _; simpa using hm
  · exact h.nextDraw.ackReply hi f 0x00

/-- One transmit attempt (R266). -/
theorem Inv.txProcess (h : Inv s) : Inv s.txProcess := by
  rcases s.txProcess_cases with ⟨-, e⟩ | ⟨f, rest, hq, ⟨-, e⟩ | ⟨-, e⟩⟩ <;> rw [e]
  · exact h
  · have hv := h.txqValid f (by simp [hq])
    simp only [validFrame, Bool.and_eq_true, decide_eq_true_eq] at hv
    refine { h with txqBound := ?_, txqValid := ?_, busWellFormed := ?_ }
    · have := h.txqBound
      simp only [State.txAccepted, State.withBlk, State.useAnswer, State.logBus, hq,
        List.tail_cons]
      simp only [hq, List.length_cons] at this
      omega
    · intro g hg
      exact h.txqValid g (List.mem_of_mem_tail hg)
    · intro b hb
      rcases List.mem_append.1 hb with hb | hb
      · exact h.busWellFormed b hb
      · rw [List.mem_singleton.1 hb]
        refine ⟨?_, hv.2, by simp [busFrame, busBytes]⟩
        have := wireOf_toNat hv.1.1.1 hv.1.1.2 hv.1.2
        simp only [busFrame]
        omega
  · have hu : Inv s.useAnswer := h.useAnswer
    rcases s.useAnswer.txRefused_cases with ⟨-, e⟩ | ⟨-, -, e⟩ <;> rw [e]
    · exact Inv.evRaise (s := { s.useAnswer with
        blk.txFailCount := satIncr s.useAnswer.blk.txFailCount }) { hu with } _ _
    · exact Inv.mark (s := { s.useAnswer with
        blk.txFailCount := satIncr s.useAnswer.blk.txFailCount }) { hu with } _

/-- An RX batch ends whatever its status was (R271). -/
theorem Inv.rxFinish (h : Inv s) (hm : s.blk.engMode = .rx) (hc : s.blk.engCallout = .none)
    (st : Status) : Inv ({ s with blk.engStatus := st } : State).rxFinish :=
  { h with
    batchInit := fun e => absurd rfl e
    calloutInBatch := fun e => absurd hc e
    handlerInRx := fun e => by
      have : s.blk.engCallout = .handler := e
      rw [hc] at this; cases this
    engStatusOk := rfl
    remInRx := fun _ => rfl
    expiredInTick := fun _ => h.expiredInTick (by simp [hm]) }

end Sys2Proof.Machine
end

