-- ==== Sys2Proof/Laws/PerInstr.lean ====
section
/-! SUPPORT. Facts stated for each command separately. Family WordCount: the encoding of a
well-formed command has as many words as its row of 30_encoding.md R105 asks for, and that number is
known from its header alone (R107). -/

namespace Sys2Proof.Laws.WordCount

open Sys2Proof Sys2Proof.Machine

/-- A well-formed command's encoding has the row's word count. -/
def Statement (i : Instr) : Prop :=
  i.wf = true → (encode i).length = rowWords i.opcode ((encode i).headD 0)

theorem idEncode (ty : Byte) (msg src : Half) : Statement (.idEncode ty msg src) := fun _ => rfl

theorem idDecode (w : Half) : Statement (.idDecode w) := fun _ => rfl

theorem packU8 (ty : Byte) (msg src : Half) (b0 b1 b2 b3 b4 b5 b6 b7 : Byte) :
    Statement (.packU8 ty msg src b0 b1 b2 b3 b4 b5 b6 b7) := fun _ => rfl

theorem packU16 (ty : Byte) (msg src : Half) (h0 h1 h2 h3 : Half) :
    Statement (.packU16 ty msg src h0 h1 h2 h3) := fun _ => rfl

theorem packU32 (ty : Byte) (msg src : Half) (w0 w1 : Word) :
    Statement (.packU32 ty msg src w0 w1) := fun _ => rfl

theorem packU64 (ty : Byte) (msg src : Half) (d : BitVec 64) :
    Statement (.packU64 ty msg src d) := fun _ => rfl

theorem pqInit (n k : Half) : Statement (.pqInit n k) := fun _ => rfl

theorem pqPush (prio : Half) (f : Frame) : Statement (.pqPush prio f) := fun _ => rfl

theorem pqPop : Statement .pqPop := fun _ => rfl

theorem pqPeek : Statement .pqPeek := fun _ => rfl

theorem pqSize : Statement .pqSize := fun _ => rfl

theorem regInit (c : Half) : Statement (.regInit c) := fun _ => rfl

theorem regDefault (cb ctx : Word) : Statement (.regDefault cb ctx) := fun _ => rfl

theorem regAdd (m : Half) (cb ctx : Word) : Statement (.regAdd m cb ctx) := fun _ => rfl

theorem regLookup (m : Half) : Statement (.regLookup m) := fun _ => rfl

theorem ackTick : Statement .ackTick := fun _ => rfl

theorem canInit (dev rx tx fe : Half) : Statement (.canInit dev rx tx fe) := fun _ => rfl

theorem transmit (f : Frame) (cb ctx : Word) : Statement (.transmit f cb ctx) := fun _ => rfl

theorem processEvent (e d : Half) : Statement (.processEvent e d) := fun _ => rfl

theorem handlerReturn (st : Byte) (r : Half) : Statement (.handlerReturn st r) := fun _ => rfl

theorem csrRead (n : Byte) : Statement (.csrRead n) := fun _ => rfl

theorem csrWrite (n : Byte) (v : Word) : Statement (.csrWrite n v) := fun _ => rfl

/-- The one row whose count depends on its header: 1 + 3k for aux8 = k. -/
theorem rxIrq (rs : List RxRecord) : Statement (.rxIrq rs) := by
  intro h
  have hk : rs.length ≤ 255 := by simpa [Instr.wf] using h
  have haux := congrArg BitVec.toNat (hdrAux_header .rxIrq (BitVec.ofNat 8 rs.length) 0)
  simp only [hdrAux, BitVec.extractLsb'_toNat, Nat.shiftRight_eq_div_pow,
    BitVec.toNat_ofNat] at haux
  simp only [encode, List.length_cons, records_length, List.headD_cons, Instr.opcode, rowWords]
  omega

theorem txReadyIrq : Statement .txReadyIrq := fun _ => rfl

end Sys2Proof.Laws.WordCount
end

