-- ==== Sys2Proof/Laws/Runs.lean ====
section
/-! SUPPORT. Runs of several steps: no command changes the turns to come, what every step keeps holds
along a run, and a main loop that polls an empty event queue is at the end of its run (70_reset_and_hazards.md R395, log entry 21). -/

namespace Sys2Proof.Machine

open Sys2Proof

/-! ## What leaves the turns to come alone -/

theorem rxDeliver_foldl_turns (rs : List RxRecord) (s : State) (n : Nat) :
    (rs.foldl rxDeliver (s, n)).1.turns = s.turns ∧
      (rs.foldl rxDeliver (s, n)).1.turnCycle = s.turnCycle := by
  obtain ⟨xs, st, d, e, -⟩ := rxDeliver_fold_frame rs s n
  rw [e]; exact ⟨rfl, rfl⟩

/-- TX processing uses up no turn. -/
theorem txProcess_turns (s : State) :
    s.txProcess.turns = s.turns ∧ s.txProcess.turnCycle = s.turnCycle := by
  rcases s.txProcess_cases with ⟨-, e⟩ | ⟨f, rest, -, ⟨-, e⟩ | ⟨-, e⟩⟩ <;> rw [e]
  · exact ⟨rfl, rfl⟩
  · exact ⟨rfl, rfl⟩
  · rcases s.useAnswer.txRefused_cases with ⟨-, e⟩ | ⟨-, -, e⟩ <;> rw [e]
    · rw [State.evRaise_eq]; exact ⟨rfl, rfl⟩
    · exact ⟨rfl, rfl⟩

theorem ackReply_turns (s : State) (f : Frame) (st : Byte) :
    (s.ackReply f st).turns = s.turns ∧ (s.ackReply f st).turnCycle = s.turnCycle := by
  obtain ⟨q, ev, m, e, -⟩ := s.ackReply_frame f st
  rw [e]; exact ⟨rfl, rfl⟩

theorem openAck_turns (s : State) (f : Frame) (a b : Word) :
    (s.openAck f a b).turns = s.turns ∧ (s.openAck f a b).turnCycle = s.turnCycle := by
  unfold State.openAck; split <;> exact ⟨rfl, rfl⟩

/-- No command changes the turns to come. -/
theorem exec_turns (i : Instr) {s t : State} (h : exec i s = .next t) :
    t.turns = s.turns ∧ t.turnCycle = s.turnCycle := by
  cases i <;>
    simp only [exec, execIdEncode, execIdDecode, execPackU8, execPackU16, execPackU32, execPackU64,
      execPqInit, execPqPush, execPqPop, execPqPeek, execPqSize, execRegInit, execRegDefault,
      execRegAdd, execRegLookup, execAckTick, execCanInit, execTransmit, execProcessEvent,
      execHandlerReturn, execCsrRead, execCsrWrite, execRxIrq, execTxReadyIrq, pack] at h <;>
    (repeat' split at h) <;> cases h <;>
    first
    | exact ⟨rfl, rfl⟩
    | simp [txProcess_turns, ackReply_turns, openAck_turns, rxDeliver_foldl_turns]

/-! ## Invariants along a run -/

@[simp] theorem runSteps_zero (s : State) : runSteps 0 s = some s := rfl

/-- What every step keeps holds in every state of a run. -/
theorem runSteps_invariant {P : State → Prop}
    (keep : ∀ s t, P s → step s = .next t → P t) {s : State} (hs : P s) :
    ∀ {n t}, runSteps n s = some t → P t := by
  intro n
  induction n generalizing s with
  | zero => rintro t ⟨⟩; exact hs
  | succ n ih =>
    intro t h
    unfold runSteps at h
    split at h
    · exact ih (keep _ _ hs ‹_›) h
    · cases h
    · cases h

/-! ## A polling main loop -/

/-- Turns of an idle main loop: polls of the event queue, and the Engine's. -/
def pollTurn : Turn → Bool
  | .process => true
  | .forward => true
  | .engine => true
  | .host _ => false
  | .isr _ => false
  | .collaborator _ => false
  | .reset => false

/-- The block rests, no event is queued or held, and only polls are to come. -/
structure Polling (s : State) : Prop where
  idle : s.blk.engMode = .idle
  noCallout : s.blk.engCallout = .none
  noEvent : s.evq = []
  noneTaken : s.taken = none
  polls : ∀ t ∈ s.turns ++ s.turnCycle, pollTurn t = true

/-- The turns to come are among those listed and those of the cycle. -/
theorem State.mem_of_mem_dueTurns {s : State} {t : Turn} (h : t ∈ s.dueTurns) :
    t ∈ s.turns ++ s.turnCycle := by
  unfold State.dueTurns at h
  split at h <;> simp_all
  tauto

theorem Polling.hostReady {s : State} (h : Polling s) : s.blk.hostWaiting = false := by
  simp [Block.hostWaiting, h.idle]

/-- The turn a polling main loop takes next, if it has one, is a poll. -/
theorem Polling.due {s : State} (h : Polling s) : ∀ t ∈ s.dueTurns, pollTurn t = true :=
  fun t ht => h.polls t (State.mem_of_mem_dueTurns ht)

/-- A step of a polling main loop uses up its turn and changes nothing else. -/
theorem Polling.step_eq {s : State} (h : Polling s) :
    Machine.step s = .next s ∨
      ∃ t rest, s.dueTurns = t :: rest ∧ Machine.step s = .next { s with turns := rest } := by
  unfold Machine.step nextTransition
  cases hd : s.dueTurns with
  | nil => exact .inl (by simp [h.hostReady])
  | cons t rest =>
    refine .inr ⟨t, rest, rfl, ?_⟩
    have ht := h.due t (by simp [hd])
    cases t <;>
      simp_all [pollTurn, takeTurn, h.hostReady, State.processCall, h.noEvent, h.noneTaken]

/-- A polling main loop stays one. -/
theorem Polling.step {s t : State} (h : Polling s) (hs : Machine.step s = .next t) :
    Polling t := by
  rcases h.step_eq with e | ⟨u, rest, hd, e⟩
  · cases e.symm.trans hs; exact h
  · cases e.symm.trans hs
    refine ⟨h.idle, h.noCallout, h.noEvent, h.noneTaken, fun v hv => ?_⟩
    rcases List.mem_append.1 hv with hv | hv
    · exact h.due v (by simp [hd, show v ∈ rest from hv])
    · exact h.polls v (List.mem_append.2 (.inr hv))

/-- A polling main loop issues no command. -/
theorem Polling.noCommand {s : State} (h : Polling s) : hostCommandTaken s = false := by
  unfold hostCommandTaken
  cases hd : s.dueTurns with
  | nil => simp
  | cons t rest =>
    have ht := h.due t (by simp [hd])
    cases t <;> simp_all [pollTurn, h.noneTaken]

/-- A main loop that polls an empty event queue, once or for ever, is at the end of its run. -/
theorem Polling.runOver {s : State} (h : Polling s) : RunOver s :=
  ⟨fun _ _ ht => (runSteps_invariant (fun _ _ => Polling.step) h ht).noCommand,
    h.idle, h.noCallout, h.noEvent⟩

end Sys2Proof.Machine
end

