-- ==== Sys2Proof/Machine/Text.lean ====
section
/-! DEFINITION. The textual form of a command (30_encoding.md R130): the mnemonic and its operands,
each written name=value in encoding order. Numbers are decimal, the 64-bit payload hexadecimal. -/

namespace Sys2Proof.Machine

open Sys2Proof

/-- A numeral in decimal. -/
def num {w : Nat} (v : BitVec w) : String := String.ofList (Nat.toDigits 10 v.toNat)

/-- A 64-bit payload in hexadecimal. -/
def hexNum (v : BitVec 64) : String := "0x" ++ String.ofList (Nat.toDigits 16 v.toNat)

/-- The braces of R130's FRAME and record forms. -/
def braced (t : String) : String :=
  String.singleton (Char.ofNat 123) ++ t ++ String.singleton (Char.ofNat 125)

/-- TYPE is written DATA, ACK or a number. -/
def typeText (ty : Byte) : String :=
  if ty = 0 then "DATA" else if ty = 1 then "ACK" else num ty

/-- FRAME: src, msg, type, dlc, data. -/
def frameText (f : Frame) : String :=
  braced ("src=" ++ num f.sourceId ++ ", msg=" ++ num f.msgId ++ ", type=" ++ typeText f.ty ++
    ", dlc=" ++ num f.dlc ++ ", data=" ++ hexNum f.data)

/-- The name of a CSR (R320). -/
def csrName : Csr → String
  | .ctrl => "CTRL"
  | .status => "STATUS"
  | .deviceId => "DEVICE_ID"
  | .eventIds => "EVENT_IDS"
  | .faultEventId => "FAULT_EVENT_ID"
  | .critMaskLo => "CRIT_MASK_LO"
  | .critMaskHi => "CRIT_MASK_HI"
  | .ackTimeout => "ACK_TIMEOUT"
  | .txRetryLimit => "TX_RETRY_LIMIT"
  | .txFailCount => "TX_FAIL_COUNT"
  | .fsmState => "FSM_STATE"
  | .rxqInfo => "RXQ_INFO"
  | .txqInfo => "TXQ_INFO"
  | .regInfo => "REG_INFO"
  | .ackInfo => "ACK_INFO"

/-- A CSR operand: its name, or its number where it is unassigned. -/
def csrText (n : Byte) : String :=
  match csrOfNum n with
  | some c => csrName c
  | none => num n

/-- One record of an RX_IRQ: wire, dlc, data. -/
def recordText (r : RxRecord) : String :=
  braced ("wire=" ++ num r.wire ++ ", dlc=" ++ num r.dlc ++ ", data=" ++ hexNum r.data)

/-- The leading operands of the codec commands. -/
def idText (ty : Byte) (msg src : Half) : String :=
  "type=" ++ typeText ty ++ ", msg=" ++ num msg ++ ", src=" ++ num src

/-- A bracketed list. -/
def listText (ts : List String) : String := "[" ++ ", ".intercalate ts ++ "]"

/-- A command as text (R130). -/
def instrText : Instr → String
  | .idEncode ty msg src => "ID_ENCODE " ++ idText ty msg src
  | .idDecode w => "ID_DECODE wire=" ++ num w
  | .packU8 ty msg src b0 b1 b2 b3 b4 b5 b6 b7 =>
    "PACK_U8 " ++ idText ty msg src ++ ", b=" ++
      listText [num b0, num b1, num b2, num b3, num b4, num b5, num b6, num b7]
  | .packU16 ty msg src h0 h1 h2 h3 =>
    "PACK_U16 " ++ idText ty msg src ++ ", h=" ++ listText [num h0, num h1, num h2, num h3]
  | .packU32 ty msg src w0 w1 => "PACK_U32 " ++ idText ty msg src ++ ", w=" ++ listText [num w0, num w1]
  | .packU64 ty msg src d => "PACK_U64 " ++ idText ty msg src ++ ", d=" ++ hexNum d
  | .pqInit n k => "PQ_INIT elems=" ++ num n ++ ", nodes=" ++ num k
  | .pqPush prio f => "PQ_PUSH prio=" ++ num prio ++ ", " ++ frameText f
  | .pqPop => "PQ_POP"
  | .pqPeek => "PQ_PEEK"
  | .pqSize => "PQ_SIZE"
  | .regInit c => "REG_INIT cap=" ++ num c
  | .regDefault cb ctx => "REG_DEFAULT cb=" ++ num cb ++ ", ctx=" ++ num ctx
  | .regAdd m cb ctx => "REG_ADD msg=" ++ num m ++ ", cb=" ++ num cb ++ ", ctx=" ++ num ctx
  | .regLookup m => "REG_LOOKUP msg=" ++ num m
  | .ackTick => "ACK_TICK"
  | .canInit dev rx tx fe =>
    "CAN_INIT dev=" ++ num dev ++ ", rx_ev=" ++ num rx ++ ", tx_ev=" ++ num tx ++ ", fault_ev=" ++
      num fe
  | .transmit f cb ctx =>
    "TRANSMIT " ++ frameText f ++ ", ack_cb=" ++ num cb ++ ", ack_ctx=" ++ num ctx
  | .processEvent e d => "PROCESS_EVENT ev=" ++ num e ++ ", data=" ++ num d
  | .handlerReturn st r => "HANDLER_RETURN status=" ++ num st ++ ", result=" ++ num r
  | .csrRead n => "CSR_READ csr=" ++ csrText n
  | .csrWrite n v => "CSR_WRITE csr=" ++ csrText n ++ ", value=" ++ num v
  | .rxIrq rs => "RX_IRQ " ++ listText (rs.map recordText)
  | .txReadyIrq => "TX_READY_IRQ"

/-- A text stands for a command (R130): its full form, or a TRANSMIT whose omitted ack operands mean
0. There are no pseudo-commands (R131). -/
def isTextOf (t : String) (i : Instr) : Prop :=
  t = instrText i ∨
  (∃ f cb, i = .transmit f cb 0 ∧ t = "TRANSMIT " ++ frameText f ++ ", ack_cb=" ++ num cb) ∨
  (∃ f, i = .transmit f 0 0 ∧ t = "TRANSMIT " ++ frameText f)

end Sys2Proof.Machine
end

