-- ==== Sys2Proof/Tests/Slice0.lean ====
section
/-! SUPPORT. The model's own tests. Words and expected values are those of 30_encoding.md and of the
vectors of 95_test_vectors.md (named in each comment); then, for every obligation with hypotheses,
a witness: a concrete state and operands that meet the hypotheses of each of its clauses. -/

namespace Sys2Proof.Tests

open Sys2Proof Sys2Proof.Machine

/-! ## WellFormed -/

theorem test_wf_counts_records (rs : List RxRecord) :
    (Instr.rxIrq rs).wf = decide (rs.length ≤ 255) := rfl

/-- 256 records do not fit the 8-bit count of an RX_IRQ (R104, R105). -/
theorem test_wf_refuses_256_records :
    (Instr.rxIrq (List.replicate 256 { wire := 0, dlc := 0, data := 0 })).wf = false := by
  rw [test_wf_counts_records, List.length_replicate]; rfl

theorem test_wf_takes_255_records :
    (Instr.rxIrq (List.replicate 255 { wire := 0, dlc := 0, data := 0 })).wf = true := by
  rw [test_wf_counts_records, List.length_replicate]; rfl

/-! ## Decoding: words written out from R101, R104 and R106 -/

theorem test_decode_idEncode :
    decode .host [0x10010000#32, 0x003F000F#32] = .ok (.idEncode 1 63 15) := by decide

theorem test_decode_idDecode : decode .host [0x110000F2#32] = .ok (.idDecode 0xF2) := by decide

theorem test_decode_packU8 :
    decode .host [0x12010000#32, 0x00020001#32, 0x11#32, 0x22#32, 0x33#32, 0x44#32, 0x55#32, 0x66#32,
      0x77#32, 0x88#32] =
    .ok (.packU8 1 2 1 0x11 0x22 0x33 0x44 0x55 0x66 0x77 0x88) := by decide

theorem test_decode_packU16 :
    decode .host [0x13010000#32, 0x00090003#32, 0x1#32, 0x2#32, 0x3#32, 0xFFFF#32] =
    .ok (.packU16 1 9 3 1 2 3 0xFFFF) := by decide

theorem test_decode_packU32 :
    decode .host [0x14000000#32, 0x003F000F#32, 0xDEADBEEF#32, 0x01020304#32] =
    .ok (.packU32 0 63 15 0xDEADBEEF 0x01020304) := by decide

theorem test_decode_packU64 :
    decode .host [0x15050000#32, 0x00640014#32, 0x33221100#32, 0x77665544#32] =
    .ok (.packU64 5 100 20 0x7766554433221100) := by decide

theorem test_decode_pqInit :
    decode .host [0x20000004#32, 0x00000005#32] = .ok (.pqInit 4 5) := by decide

theorem test_decode_pqPush :
    decode .host [0x21000007#32, 0x33221100#32, 0x77665544#32, 0x00070001#32, 0x0000FF05#32] =
    .ok (.pqPush 7
      { sourceId := 1, msgId := 7, ty := 5, dlc := 255, data := 0x7766554433221100 }) := by decide

theorem test_decode_pqPop : decode .host [0x22000000#32] = .ok .pqPop := by decide

theorem test_decode_pqPeek : decode .host [0x23000000#32] = .ok .pqPeek := by decide

theorem test_decode_pqSize : decode .host [0x24000000#32] = .ok .pqSize := by decide

theorem test_decode_regInit : decode .host [0x30000009#32] = .ok (.regInit 9) := by decide

theorem test_decode_regDefault :
    decode .host [0x31000000#32, 0x00000D00#32, 0x000000D1#32] = .ok (.regDefault 0xD00 0xD1) := by
  decide

theorem test_decode_regAdd :
    decode .host [0x3200000A#32, 0x00000010#32, 0x00000C00#32] = .ok (.regAdd 10 0x10 0xC00) := by
  decide

theorem test_decode_regLookup : decode .host [0x33000040#32] = .ok (.regLookup 64) := by decide

theorem test_decode_ackTick : decode .host [0x40000000#32] = .ok .ackTick := by decide

/-- EV2 holds tx_event_id in its high half and rx_event_id in its low half. -/
theorem test_decode_canInit :
    decode .host [0x50000002#32, 0x00110010#32, 0x00000012#32] = .ok (.canInit 2 0x10 0x11 0x12) := by
  decide

theorem test_decode_transmit :
    decode .host [0x51000000#32, 0x00000055#32, 0x00000000#32, 0x00030002#32, 0x00000100#32,
      0x0000B001#32, 0x00000001#32] =
    .ok (.transmit { sourceId := 2, msgId := 3, ty := 0, dlc := 1, data := 0x55 } 0xB001 1) := by
  decide

theorem test_decode_processEvent :
    decode .host [0x52000010#32, 0x00000002#32] = .ok (.processEvent 0x10 2) := by decide

theorem test_decode_handlerReturn :
    decode .host [0x53031234#32] = .ok (.handlerReturn 3 0x1234) := by decide

theorem test_decode_csrRead : decode .host [0x600C0000#32] = .ok (.csrRead 0x0C) := by decide

theorem test_decode_csrWrite :
    decode .host [0x61070000#32, 0x00012345#32] = .ok (.csrWrite 7 0x12345) := by decide

/-- RX5's two records. -/
theorem test_decode_rxIrq :
    decode .isr [0x70020000#32, 0x0000F869#32, 0x0#32, 0x0#32, 0x00080069#32, 0x12345678#32,
      0x9ABCDEF0#32] =
    .ok (.rxIrq [{ wire := 0xF869, dlc := 0, data := 0 },
      { wire := 0x069, dlc := 8, data := 0x9ABCDEF012345678 }]) := by decide

theorem test_decode_txReadyIrq : decode .isr [0x71000000#32] = .ok .txReadyIrq := by decide

/-- CD8, CD13, PQ12: reserved header fields. PK2, PK6, PQ11, PQ13, RX2: reserved operand bits.
CD14, RX3: word counts. -/
theorem test_decode_rejects :
    decode .host [0x10000001#32, 0x0#32] = .error .reservedHeader ∧
    decode .host [0x11010000#32] = .error .reservedHeader ∧
    decode .host [0x20010002#32, 0x3#32] = .error .reservedHeader ∧
    decode .host [0x12000000#32, 0x00020001#32, 0x100#32, 0#32, 0#32, 0#32, 0#32, 0#32, 0#32, 0#32] =
      .error .reservedOperand ∧
    decode .host [0x13000000#32, 0x00090003#32, 0x00010000#32, 0#32, 0#32, 0#32] =
      .error .reservedOperand ∧
    decode .host [0x21000007#32, 0#32, 0#32, 0x00070001#32, 0x00010000#32] =
      .error .reservedOperand ∧
    decode .host [0x20000002#32, 0x00010003#32] = .error .reservedOperand ∧
    decode .isr [0x70010000#32, 0x001200E9#32, 0#32, 0#32] = .error .reservedOperand ∧
    decode .host [0x11000000#32, 0#32] = .error .wrongWordCount ∧
    decode .isr [0x70020000#32, 0x000200E9#32, 0x0000BEEF#32, 0#32] = .error .wrongWordCount ∧
    decode .host [0x16000000#32] = .error .undefinedOpcode ∧
    decode .host [0x71000000#32] = .error .wrongPort ∧
    decode .isr [0x22000000#32] = .error .wrongPort ∧
    decode .host [] = .error .noHeader := by decide

/-- The opcode table's numbering: PQ_INIT, bit 0 of W0 is bit 32; the port is the opcode's. -/
theorem test_decodeTableWord :
    decodeTableWord 64 0x0000000520000004 = some (.pqInit 4 5) ∧
    decodeTableWord 32 0x71000000 = some .txReadyIrq := by decide

/-- P1 step 1, step 4 and step 6 as text, with R130's form. -/
theorem test_text :
    instrText (.canInit 2 16 17 18) = "CAN_INIT dev=2, rx_ev=16, tx_ev=17, fault_ev=18" ∧
    instrText (.csrWrite 5 128) = "CSR_WRITE csr=CRIT_MASK_LO, value=128" := by decide

/-! ## One step each -/

/-- The state "Booted" of 95_test_vectors.md. -/
def booted : State :=
  { State.reset with
    blk.init := true, blk.deviceId := 2, blk.rxEventId := 0x10, blk.txEventId := 0x11,
    blk.faultEventId := 0x12, blk.rxqInit := true, blk.rxqCap := 2, blk.regInit := true,
    blk.regCap := 2 }

/-- R395 with the model's choice of log entry 21: a booted block whose host goes on polling an empty
event queue for ever is at the end of its run. -/
theorem test_pollingMainLoopIsOver :
    RunOver { booted with turnCycle := [.process, .forward] } :=
  Polling.runOver ⟨rfl, rfl, rfl, rfl, by decide⟩

/-- The state after a command's words on a port. -/
def after (p : Port) (ws : List Word) (s : State) : State :=
  match runCommand p ws s with
  | .next t => t
  | .fault _ => s
  | .refused _ => s

/-- The last response of the port, after a command's words on it. -/
def answer (p : Port) (ws : List Word) (s : State) : Option (List Word) :=
  match p with
  | .host => (after p ws s).hostOut.getLast?
  | .isr => (after p ws s).isrOut.getLast?

/-- A frame {src, msg, type, dlc, data}. -/
def fr (src msg : Half) (ty dlc : Byte) (data : BitVec 64) : Frame :=
  { sourceId := src, msgId := msg, ty := ty, dlc := dlc, data := data }

/-- A queued frame. -/
def qe (key : Half) (f : Frame) : QEntry := { key := key, frame := f }

/-- The boot sequence answers OK three times and leaves the state Booted. -/
theorem test_boot :
    execAll [.canInit 2 0x10 0x11 0x12, .pqInit 2 3, .regInit 2] State.reset =
      some { booted with hostOut := [[0#32], [0#32], [0#32]] } := by decide

/-- CD1, CD4. -/
theorem test_idEncode :
    answer .host [0x10000000#32, 0x00050001#32] State.reset = some [0x000000A1#32] ∧
    answer .host [0x10000000#32, 0x00000010#32] State.reset = some [0x00010000#32] := by decide

/-- CD11, CD12. -/
theorem test_idDecode :
    answer .host [0x1100FFFF#32] State.reset = some [0#32, 0x003F000F#32, 1#32] ∧
    answer .host [0x110000F2#32] State.reset = some [0#32, 0x00070002#32, 1#32] := by decide

/-- PK1. -/
theorem test_packU8 :
    answer .host [0x12000000#32, 0x00020001#32, 0x11#32, 0x22#32, 0x33#32, 0x44#32, 0x55#32, 0x66#32,
      0x77#32, 0x88#32] State.reset =
    some [0#32, 0x44332211#32, 0x88776655#32, 0x00020001#32, 0x00000800#32] := by decide

/-- PK5. -/
theorem test_packU16 :
    answer .host [0x13000000#32, 0x00090003#32, 0#32, 0x1234#32, 0#32, 0#32] State.reset =
    some [0#32, 0x12340000#32, 0#32, 0x00090003#32, 0x00000600#32] := by decide

/-- PK7, in mode 1. -/
theorem test_packU32 :
    answer .host [0x14000000#32, 0x003F000F#32, 0xDEADBEEF#32, 0#32]
      { State.reset with blk.dlcMode := true } =
    some [0#32, 0xDEADBEEF#32, 0#32, 0x003F000F#32, 0x00000400#32] := by decide

/-- PK8, PK9: the payload that tells the readings of ffs64 apart. -/
theorem test_packU64 :
    answer .host [0x15000000#32, 0x00010002#32, 0#32, 0x80000000#32] State.reset =
      some [0#32, 0#32, 0x80000000#32, 0x00010002#32, 0#32] ∧
    answer .host [0x15000000#32, 0x00010002#32, 0#32, 0x80000000#32]
      { State.reset with blk.dlcMode := true } =
      some [0#32, 0#32, 0x80000000#32, 0x00010002#32, 0x00000800#32] := by decide

/-- LN3, LN6, LN10. -/
theorem test_dlc :
    dlcOf 0x80 false = 7 ∧ dlcOf 0x8000 false = 6 ∧ dlcOf 0x0100000000000000 false = 1 := by decide

/-- PQ2, PQ3. -/
theorem test_pqInit :
    answer .host [0x20000004#32, 0x4#32] State.reset = some [0x00010000#32] ∧
    answer .host [0x20000009#32, 0xA#32] State.reset = some [0x00010000#32] := by decide

/-- PQ5's third push: the queue is full. -/
theorem test_pqPush :
    answer .host [0x21000005#32, 5#32, 0#32, 0x00050001#32, 0x100#32]
      { booted with blk.rxq := [qe 5 (fr 1 5 0 1 5), qe 1 (fr 1 1 0 1 1)] } =
    some [0x00020000#32] := by decide

/-- PQ8: the lowest key first, though it was pushed second. -/
theorem test_pqPop :
    answer .host [0x22000000#32]
      { booted with blk.rxq := [qe 5 (fr 1 5 0 1 5), qe 1 (fr 1 1 0 1 1)] } =
      some [0x00000001#32, 1#32, 0#32, 0x00010001#32, 0x00000100#32] ∧
    (after .host [0x22000000#32]
      { booted with blk.rxq := [qe 4 (fr 1 4 0 0 0xA), qe 4 (fr 1 4 0 0 0xB)] }).blk.rxq =
      [qe 4 (fr 1 4 0 0 0xB)] := by decide

/-- PQ7, PQ9. -/
theorem test_pqPeek :
    answer .host [0x23000000#32]
      { booted with blk.rxq := [qe 5 (fr 1 5 0 1 5), qe 1 (fr 1 1 0 1 1)] } =
      some [0x00000001#32, 1#32, 0#32, 0x00010001#32, 0x00000100#32] ∧
    answer .host [0x23000000#32] booted = some [0x00040000#32] := by decide

/-- PQ6. -/
theorem test_pqSize :
    answer .host [0x24000000#32]
      { booted with blk.rxq := [qe 5 (fr 1 5 0 1 5), qe 1 (fr 1 1 0 1 1)] } =
    some [0x00000002#32] := by decide

/-- DT2, DT8. -/
theorem test_regInit :
    answer .host [0x30000009#32] State.reset = some [0x00010000#32] ∧
    (after .host [0x30000002#32]
      { booted with blk.reg := [{ msgId := 10, cb := 1, ctx := 0 }] }).blk.reg = [] := by decide

/-- DT1, DT5. -/
theorem test_regDefault :
    answer .host [0x31000000#32, 1#32, 2#32] State.reset = some [0x00060000#32] ∧
    (after .host [0x31000000#32, 0xD00#32, 0#32] booted).blk.regDefault =
      some { cb := 0xD00, ctx := 0 } := by decide

/-- DT3: an id above 63, and a full table. -/
theorem test_regAdd :
    answer .host [0x32000040#32, 1#32, 1#32] booted = some [0x00010000#32] ∧
    answer .host [0x32000007#32, 0x30#32, 0#32]
      { booted with blk.reg := [{ msgId := 10, cb := 0x10, ctx := 0 },
        { msgId := 2, cb := 0x20, ctx := 0 }] } = some [0x00020000#32] := by decide

/-- DT6, DT7. -/
theorem test_regLookup :
    answer .host [0x33000005#32]
      { booted with blk.reg := [{ msgId := 5, cb := 0xA, ctx := 0 },
        { msgId := 5, cb := 0xB, ctx := 0 }] } = some [0#32, 0xB#32, 0#32] ∧
    answer .host [0x33000040#32] booted = some [0x00030000#32] := by decide

/-- AK2's table. -/
def ticking : State :=
  { booted with
    blk.critMask := 8, blk.ackTimeout := 1,
    blk.ack := [{ msgId := 3, cb := 0xB000, ctx := 0, countdown := 0 },
      { msgId := 3, cb := 0xB001, ctx := 1, countdown := 1 },
      { msgId := 3, cb := 0xB002, ctx := 2, countdown := 1 }] }

/-- AK3: both expiring entries leave the table before the first callout. -/
theorem test_ackTick :
    (after .host [0x40000000#32] ticking).blk.ack =
      [{ msgId := 3, cb := 0xB000, ctx := 0, countdown := 0 }] ∧
    (engineStep (after .host [0x40000000#32] ticking)).hostOut =
      [[0x02000000#32, 0x0000B001#32, 1#32, 0x0003FFFF#32, 0x000001FF#32]] := by decide

/-- R260: a device id above 15, and equal event ids. -/
theorem test_canInit :
    answer .host [0x50000010#32, 0x00110010#32, 0x12#32] State.reset = some [0x00010000#32] ∧
    answer .host [0x50000002#32, 0x00100010#32, 0x12#32] State.reset = some [0x00010000#32] := by
  decide

/-- TX1; AK1's pending entry. -/
theorem test_transmit :
    (after .host [0x51000000#32, 1#32, 0#32, 0x00140002#32, 0x800#32, 0#32, 0#32] booted).evq =
      [{ id := 0x11, data := 0 }] ∧
    (after .host [0x51000000#32, 0#32, 0#32, 0x00030002#32, 0#32, 0xB000#32, 0#32]
      { booted with blk.critMask := 8 }).blk.ack =
      [{ msgId := 3, cb := 0xB000, ctx := 0, countdown := 0 }] := by decide

/-- TX6's last attempt; P2 step 6, where the limit is reached. -/
theorem test_processEvent :
    (after .host [0x52000011#32, 0#32]
      { booted with blk.txq := [fr 2 3 0 1 0x55], blk.txFailCount := 2, answers := [.ok] }).busLog =
      [{ wire := 0x062, dlc := 1, bytes := [0x55] }] ∧
    (after .host [0x52000011#32, 0#32]
      { booted with blk.txq := [fr 2 20 0 8 1], blk.txFailCount := 1, blk.txRetryLimit := 2,
                    answers := [.busy] }).blk.status = 0x10#6 := by decide

/-- A Data frame of msg 9 in a handler's hands, msg 9 critical (RX9). -/
def inHandler : State :=
  { booted with
    blk.critMask := 0x200, blk.engMode := .rx, blk.engRem := 0, blk.engCallout := .handler,
    blk.engCur := fr 2 9 0 1 7 }

/-- RX13, RX14. -/
theorem test_handlerReturn :
    (after .host [0x53050000#32] inHandler).blk.txq = [fr 2 9 1 1 5] ∧
    answer .host [0x53050000#32] booted = some [0x00090000#32] := by decide

/-- CS2, CS3. -/
theorem test_csrRead :
    answer .host [0x600C0000#32] State.reset = some [0#32, 0x00040000#32] ∧
    answer .host [0x600F0000#32] State.reset = some [0x00080000#32] := by decide

/-- CS9, CS5. -/
theorem test_csrWrite :
    (after .host [0x61010000#32, 0x10#32] { State.reset with blk.status := 0x12#6 }).blk.status =
      0x02#6 ∧
    answer .host [0x61020000#32, 3#32] State.reset = some [0x00010000#32] := by decide

/-- RX4: bytes beyond the dlc are stored as 0. RX5: the second record finds the queue full. -/
theorem test_rxIrq :
    (after .isr [0x70010000#32, 0x000100E9#32, 0x12345678#32, 0x9ABCDEF0#32] booted).blk.rxq =
      [qe 7 (fr 9 7 0 1 0x78)] ∧
    (after .isr [0x70020000#32, 0x0000F869#32, 0#32, 0#32, 0x00080069#32, 0xFFFFFFFF#32,
      0xFFFFFFFF#32] { booted with blk.rxq := [qe 7 (fr 9 7 0 1 0x78)] }).blk.status = 1#6 := by
  decide

/-- TX10. -/
theorem test_txReadyIrq :
    (after .isr [0x71000000#32] booted).evq = [{ id := 0x11, data := 0 }] := by decide

/-- RX9: the default handler is called with the frame. RX8: a frame of another type ends the batch. -/
theorem test_rxStep :
    (engineStep { booted with
      blk.engMode := .rx, blk.engRem := 1, blk.regDefault := some { cb := 0xD00, ctx := 0xD1 },
      blk.rxq := [qe 9 (fr 0 9 0 1 7)] }).hostOut =
      [[0x01000000#32, 0xD00#32, 0xD1#32, 7#32, 0#32, 0x00090000#32, 0x00000100#32]] ∧
    (engineStep { booted with
      blk.engMode := .rx, blk.engRem := 2,
      blk.rxq := [qe 1 (fr 1 1 2 0 0), qe 2 (fr 1 2 0 0 0)] }).hostOut = [[0x00050001#32]] := by
  decide

/-- withFetchWord: the very next step takes the instruction given as a number. -/
theorem test_fetch :
    step (State.reset.withFetchWord 64 0x0000000520000004) = exec (.pqInit 4 5) State.reset := rfl

/-! ## Witnesses: the hypotheses of each clause of each obligation are met, at boundary values -/

/-- An RX batch with two frames queued, one frame to send, one request pending. -/
def running : State :=
  { booted with
    blk.engMode := .rx, blk.engRem := 2, blk.critMask := 0x208, blk.txq := [fr 2 3 0 1 0x55],
    blk.rxq := [qe 9 (fr 1 9 0 1 7), qe 3 (fr 5 3 1 1 0)],
    blk.reg := [{ msgId := 9, cb := 0xA01, ctx := 0xC7 }],
    blk.ack := [{ msgId := 3, cb := 0xB001, ctx := 0, countdown := 2 }],
    busLog := [{ wire := 0x062, dlc := 1, bytes := [0x55] }] }

/-- A tick batch with one expiry to deliver. -/
def expiringOne : State :=
  { booted with
    blk.engMode := .tick,
    blk.engExpired := [{ msgId := 3, cb := 0xB001, ctx := 1, countdown := 1 }] }

/-- A full RX queue, TX FIFO, dispatch table and pending-ack table, msg 3 critical. -/
def full : State :=
  { booted with
    blk.critMask := 8, blk.rxq := [qe 5 (fr 1 5 0 1 5), qe 1 (fr 1 1 0 1 1)],
    blk.txq := List.replicate 4 (fr 2 3 0 1 0x55),
    blk.reg := [{ msgId := 10, cb := 0x10, ctx := 0 }, { msgId := 63, cb := 0x20, ctx := 0 }],
    blk.ack := List.replicate 4 { msgId := 3, cb := 0xB000, ctx := 0, countdown := 1 } }

theorem running_inv : Inv running := by constructor <;> decide

theorem expiringOne_inv : Inv expiringOne := by constructor <;> decide

theorem inHandler_inv : Inv inHandler := by constructor <;> decide

theorem witness_DecodeInvertsEncode :
    (Instr.packU8 255 0xFFFF 0xFFFF 0 0 0 0 0 0 0 255).wf = true ∧
    (Instr.rxIrq (List.replicate 255 { wire := 0, dlc := 0, data := 0 })).wf = true :=
  ⟨rfl, test_wf_takes_255_records⟩

theorem witness_EncodeInvertsDecode :
    decode .host [0x32000007#32, 0x00000A01#32, 0x000000C7#32] = .ok (.regAdd 7 0xA01 0xC7) ∧
    decode .isr [0x71000000#32] = .ok .txReadyIrq := by decide

theorem witness_DecodingIsTheOpcodeTable :
    IsCommand .pqSize .host 0x24000000#32 [] ∧ IsCommand .processEvent .host 0x52000010#32 [2#32] ∧
    decode .host [0x52000010#32, 2#32] = .ok (.processEvent 0x10 2) := by
  refine ⟨⟨by unfold fitsRow; decide, rfl, rfl, by simp⟩,
    ⟨by unfold fitsRow; decide, rfl, rfl, ?_⟩, by decide⟩
  intro j w h
  cases j with
  | zero => simp at h; subst h; decide
  | succ j => simp at h

theorem witness_IllegalCommandHasNoEffect :
    (∀ op, ¬ IsCommand op .host 0x16000000#32 []) ∧
    (∃ r ∈ [({ wire := 0x0E9, dlc := 9, data := 0 } : RxRecord)], r.dlc.toNat > 8) ∧
    hdrOpc 0x71000000#32 = 0x71 ∧ hdrOpc 0x70000000#32 = 0x70 ∧ hdrOpc 0x22000000#32 ≠ 0x70 ∧
    hdrOpc 0x22000000#32 ≠ 0x71 := by
  refine ⟨?_, by decide, by decide, by decide, by decide, by decide⟩
  rintro op ⟨h, -⟩
  revert h
  unfold fitsRow
  cases op <;> decide

theorem witness_BytesCarryWordsLittleEndian : (0 : Nat) < 4 ∧ (3 : Nat) < 4 := by decide

theorem witness_StepRunsTheDecodedCommand :
    (∃ s : State, s.dueTurns = [.host [0x24000000#32]] ∧ s.blk.hostWaiting = false ∧
      decode .host [0x24000000#32] = .ok .pqSize) ∧
    (∃ s : State, s.dueTurns = [.isr [0x71000000#32]] ∧
      decode .isr [0x71000000#32] = .ok .txReadyIrq) ∧
    (∃ s : State, s.dueTurns = [.host []] ∧ s.blk.hostWaiting = false ∧
      decode .host [] = .error .noHeader) ∧
    (∃ s : State, s.dueTurns = [.isr [0x24000000#32]] ∧
      decode .isr [0x24000000#32] = .error .wrongPort) ∧
    (∃ s : State, s.dueTurns = [.host [0x24000000#32]] ∧ s.blk.hostWaiting = true) ∧
    (∃ s : State, s.dueTurns = [.process, .forward] ∧ s.blk.hostWaiting = true) ∧
    (∃ s : State, s.dueTurns = [.forward] ∧ s.blk.hostWaiting = true) ∧
    (running.dueTurns = [] ∧ running.blk.hostWaiting = true) ∧
    booted.dueTurns = [] ∧ booted.blk.hostWaiting = false ∧ booted.turns = [] ∧
    ({ booted with turns := [.engine] } : State).turns ≠ [] :=
  ⟨⟨{ booted with turns := [.host [0x24000000#32]] }, by decide⟩,
   ⟨{ booted with turns := [.isr [0x71000000#32]] }, by decide⟩,
   ⟨{ booted with turns := [.host []] }, by decide⟩,
   ⟨{ running with turns := [.isr [0x24000000#32]] }, by decide⟩,
   ⟨{ running with turns := [.host [0x24000000#32]] }, by decide⟩,
   ⟨{ running with turnCycle := [.process, .forward] }, by decide⟩,
   ⟨{ running with turns := [.forward] }, by decide⟩, by decide⟩

theorem witness_HostDrainsEventsInOrder :
    (∃ s : State, s.blk.hostWaiting = false ∧ s.dueTurns = [.process] ∧
      s.evq = [{ id := 0x10, data := 2 }]) ∧
    (∃ s : State, s.blk.hostWaiting = false ∧ s.dueTurns = [.process] ∧ s.evq = []) ∧
    ∃ s : State, s.blk.hostWaiting = false ∧ s.dueTurns = [.forward] ∧
      s.taken = some { id := 0x10, data := 2 } :=
  ⟨⟨{ booted with turns := [.process], evq := [{ id := 0x10, data := 2 }] }, by decide⟩,
   ⟨{ booted with turns := [.process] }, by decide⟩,
   ⟨{ booted with turns := [.forward], taken := some { id := 0x10, data := 2 } }, by decide⟩⟩

theorem witness_IdEncodeAndDecodeResult :
    (16#16).toNat > 15 ∧ (64#16).toNat > 63 ∧ (2#8).toNat > 1 ∧
    (15#16).toNat ≤ 15 ∧ (63#16).toNat ≤ 63 ∧ (1#8).toNat ≤ 1 := by decide

theorem witness_WireIdRoundTrip :
    (0x7FF#16).extractLsb' 11 5 = 0#5 ∧ (0x7FF#16).toNat ≤ 0x7FF ∧ (0#16).toNat ≤ 0x7FF := by decide

theorem witness_DerivedLength :
    ((1#64 <<< 63).getLsbD (8 * 7 + 7) = true ∧
      ∀ k, k < 8 * 7 + 7 → (1#64 <<< 63).getLsbD k = false) ∧
    ((1#64 <<< 63).getLsbD (8 * 7 + 7) = true ∧
      ∀ k, 8 * 7 + 7 < k → (1#64 <<< 63).getLsbD k = false) :=
  ⟨by decide, by decide, fun _ hk => BitVec.getLsbD_of_ge _ _ hk⟩

theorem witness_PayloadViewsAgree : 7 < (fr 1 1 0 8 0).dlc.toNat := by decide

theorem witness_PqInitResult :
    inHandler.blk.engCallout ≠ .none ∧
    (booted.blk.engCallout = .none ∧ (9#16).toNat > booted.params.rxqMaxSlots) ∧
    (4#16).toNat ≠ (4#16).toNat + 1 ∧
    ((9#16).toNat = (8#16).toNat + 1 ∧ (8#16).toNat ≤ booted.params.rxqMaxSlots) ∧
    (1#16).toNat = (0#16).toNat + 1 ∧ (0#16).toNat ≤ booted.params.rxqMaxSlots := by decide

theorem witness_PqPushResult :
    State.reset.blk.rxqInit = false ∧
    (full.blk.rxqInit = true ∧ full.blk.rxq.length = full.blk.rxqCap.toNat) ∧
    booted.blk.rxqInit = true ∧ booted.blk.rxq.length ≠ booted.blk.rxqCap.toNat ∧
    booted.params.pqTie = .stable := by decide

theorem witness_PqPopAndPeekResult :
    State.reset.blk.rxqInit = false ∧ (booted.blk.rxqInit = true ∧ booted.blk.rxq = []) ∧
    full.blk.rxqInit = true ∧ full.blk.rxq ≠ [] := by decide

theorem witness_PqSizeResult :
    State.reset.blk.rxqInit = false ∧ full.blk.rxqInit = true := by decide

theorem witness_QueueHoldsExactlyItsCapacity :
    booted.blk.rxqInit = true ∧ [(5#16, fr 1 5 0 1 5), (1#16, fr 1 1 0 1 1)] ≠ [] ∧
    booted.blk.rxq.length + [(5#16, fr 1 5 0 1 5), (1#16, fr 1 1 0 1 1)].length =
      booted.blk.rxqCap.toNat := by decide

theorem witness_RegInitAndDefaultResult :
    inHandler.blk.engCallout ≠ .none ∧
    (booted.blk.engCallout = .none ∧ (9#16).toNat > booted.params.regMaxEntries) ∧
    (8#16).toNat ≤ booted.params.regMaxEntries ∧
    State.reset.blk.regInit = false ∧ booted.blk.regInit = true := by decide

theorem witness_RegAddResult :
    State.reset.blk.regInit = false ∧ (booted.blk.regInit = true ∧ (64#16).toNat > 63) ∧
    (full.blk.regInit = true ∧ (63#16).toNat ≤ 63 ∧ full.blk.reg.length = full.blk.regCap.toNat) ∧
    booted.blk.reg.length ≠ booted.blk.regCap.toNat := by decide

theorem witness_RegLookupResult :
    State.reset.blk.regInit = false ∧
    (full.blk.regInit = true ∧ ∀ e ∈ full.blk.reg, e.msgId ≠ 64) ∧
    (∃ e ∈ full.blk.reg, e.msgId = 63) ∧ full.params.dupLookup = .newest := by decide

theorem witness_DistinctIdsAreFound :
    full.blk.reg.Pairwise (fun a b => a.msgId ≠ b.msgId) ∧
    ({ msgId := 63, cb := 0x20, ctx := 0 } : RegEntry) ∈ full.blk.reg := by decide

theorem witness_AckReplyForCriticalFrames :
    (critical booted.blk (fr 1 9 0 1 7) = false ∧
      critical { booted.blk with critMask := 1#64 <<< 63 } (fr 1 63 0 0 0) = true) ∧
    (critical full.blk (fr 1 3 0 1 7) = true ∧ full.blk.txq.length = full.params.txqCapacity) ∧
    critical running.blk (fr 1 9 0 1 7) = true ∧
    running.blk.txq.length ≠ running.params.txqCapacity := by decide

theorem witness_AckResolvesOldestRequest :
    (∀ e ∈ booted.blk.ack, e.msgId.toNat ≠ (fr 5 3 1 1 0).msgId.toNat) ∧
    ∃ e l r, running.blk.ack = l ++ e :: r ∧ e.msgId.toNat = (fr 5 3 1 1 0).msgId.toNat ∧
      ∀ x ∈ l, x.msgId.toNat ≠ (fr 5 3 1 1 0).msgId.toNat :=
  ⟨by decide, { msgId := 3, cb := 0xB001, ctx := 0, countdown := 2 }, [], [], by decide⟩

theorem witness_AckTickResult :
    inHandler.blk.engCallout ≠ .none ∧
    (State.reset.blk.engCallout = .none ∧ State.reset.blk.init = false) ∧
    (booted.blk.engCallout = .none ∧ booted.blk.init = true ∧
      ∀ e ∈ booted.blk.ack, e.countdown ≠ 1) ∧
    ticking.blk.engCallout = .none ∧ ticking.blk.init = true ∧
    ∃ e ∈ ticking.blk.ack, e.countdown = 1 := by decide

theorem witness_TickStepDeliversExpiry :
    (expiringOne.blk.engMode = .tick ∧ expiringOne.blk.engCallout = .none ∧
      expiringOne.blk.engExpired = [{ msgId := 3, cb := 0xB001, ctx := 1, countdown := 1 }]) ∧
    ∃ s : State, s.blk.engMode = .tick ∧ s.blk.engCallout = .none ∧ s.blk.engExpired = [] :=
  ⟨by decide, { booted with blk.engMode := .tick }, by decide⟩

theorem witness_RequestDeliveredAtMostOnce :
    running.blk.hostWaiting = true ∧ expiringOne.blk.hostWaiting = true := by decide

theorem witness_CanInitResult :
    inHandler.blk.engCallout ≠ .none ∧ (booted.blk.engCallout = .none ∧ (16#16).toNat > 15) ∧
    ((15#16).toNat ≤ 15 ∧ 0x10#16 ≠ 0xFFFF#16 ∧ 0x11#16 ≠ 0xFFFF#16 ∧ 0xFFFE#16 ≠ 0xFFFF#16 ∧
      0x10#16 ≠ 0x11#16 ∧ 0x10#16 ≠ 0xFFFE#16 ∧ 0x11#16 ≠ 0xFFFE#16) := by decide

theorem witness_TransmitResult :
    State.reset.blk.init = false ∧
    (booted.blk.init = true ∧ (fr 16 0 0 0 0).sourceId.toNat > 15 ∧
      (fr 0 64 0 0 0).msgId.toNat > 63 ∧ (fr 0 0 2 0 0).ty.toNat > 1 ∧
      (fr 0 0 0 9 0).dlc.toNat > 8) ∧
    (full.blk.init = true ∧ validFrame (fr 2 3 0 1 0) = true ∧
      critical full.blk (fr 2 3 0 1 0) = true ∧
      full.blk.ack.length = full.params.ackMaxPending ∧
      full.blk.txq.length = full.params.txqCapacity) ∧
    running.blk.init = true ∧ validFrame (fr 15 3 0 8 0) = true ∧
    (critical running.blk (fr 15 3 0 8 0) = true →
      running.blk.ack.length ≠ running.params.ackMaxPending) ∧
    running.blk.txq.length ≠ running.params.txqCapacity := by decide

theorem witness_ProcessEventResult :
    inHandler.blk.engCallout ≠ .none ∧
    (State.reset.blk.engCallout = .none ∧ State.reset.blk.init = false) ∧
    (booted.blk.engCallout = .none ∧ booted.blk.init = true ∧ 0x10#16 = booted.blk.rxEventId) ∧
    0x12#16 ≠ booted.blk.rxEventId ∧ 0x12#16 ≠ booted.blk.txEventId := by decide

theorem witness_TxEventMakesOneAttempt :
    (booted.blk.engCallout = .none ∧ booted.blk.init = true ∧
      booted.blk.txEventId ≠ booted.blk.rxEventId ∧ booted.blk.txq = []) ∧
    (∃ s : State, s.blk.engCallout = .none ∧ s.blk.init = true ∧
      s.blk.txEventId ≠ s.blk.rxEventId ∧ s.blk.txq = [fr 2 3 0 1 0x55] ∧ s.nextAnswer = .ok) ∧
    (∃ s : State, s.blk.engCallout = .none ∧ s.blk.init = true ∧
      s.blk.txEventId ≠ s.blk.rxEventId ∧ s.blk.txq = [fr 2 3 0 1 0x55] ∧ s.nextAnswer = .busy ∧
      0xFFFF = min (s.blk.txFailCount.toNat + 1) 0xFFFF ∧ s.blk.txRetryLimit = 0) ∧
    (∃ s : State, s.blk.engCallout = .none ∧ s.blk.init = true ∧
      s.blk.txEventId ≠ s.blk.rxEventId ∧ s.blk.txq = [fr 2 3 0 1 0x55] ∧ s.nextAnswer = .busy ∧
      1 = min (s.blk.txFailCount.toNat + 1) 0xFFFF ∧ 1 < s.blk.txRetryLimit.toNat) ∧
    ∃ s : State, s.blk.engCallout = .none ∧ s.blk.init = true ∧
      s.blk.txEventId ≠ s.blk.rxEventId ∧ s.blk.txq = [fr 2 3 0 1 0x55] ∧ s.nextAnswer = .busy ∧
      2 = min (s.blk.txFailCount.toNat + 1) 0xFFFF ∧ s.blk.txRetryLimit ≠ 0 ∧
      s.blk.txRetryLimit.toNat ≤ 2 :=
  ⟨by decide,
   ⟨{ booted with blk.txq := [fr 2 3 0 1 0x55], answers := [.ok] }, by decide⟩,
   ⟨{ booted with blk.txq := [fr 2 3 0 1 0x55], answers := [.busy],
                  blk.txFailCount := 0xFFFF }, by decide⟩,
   ⟨{ booted with blk.txq := [fr 2 3 0 1 0x55], answers := [.busy],
                  blk.txRetryLimit := 2 }, by decide⟩,
   ⟨{ booted with blk.txq := [fr 2 3 0 1 0x55], answers := [.busy],
                  blk.txFailCount := 1, blk.txRetryLimit := 2 }, by decide⟩⟩

theorem witness_HandlerReturnResult :
    booted.blk.engCallout = .none ∧ inHandler.blk.engCallout = .handler ∧
    (engineStep expiringOne).blk.engCallout = .ackCb := by decide

theorem witness_RxBatchEnds :
    (∃ s : State, s.blk.engMode = .rx ∧ s.blk.engCallout = .none ∧ s.blk.engRem = 0) ∧
    (∃ s : State, s.blk.engMode = .rx ∧ s.blk.engCallout = .none ∧ s.blk.engRem ≠ 0 ∧
      s.blk.rxq = []) ∧
    ∃ s : State, s.blk.engMode = .rx ∧ s.blk.engCallout = .none ∧ s.blk.engRem ≠ 0 ∧
      sel s.blk.rxq = some (qe 1 (fr 1 1 2 0 0)) ∧ (fr 1 1 2 0 0).ty ≠ 0 ∧
      (fr 1 1 2 0 0).ty ≠ 1 ∧ s.params.pqTie = .stable :=
  ⟨⟨{ booted with blk.engMode := .rx }, by decide⟩,
   ⟨{ booted with blk.engMode := .rx, blk.engRem := 1 }, by decide⟩,
   ⟨{ booted with blk.engMode := .rx, blk.engRem := 1,
                  blk.rxq := [qe 1 (fr 1 1 2 0 0)] }, by decide⟩⟩

theorem witness_RxStepDispatchesByType :
    (running.blk.engMode = .rx ∧ running.blk.engCallout = .none ∧ running.blk.engRem ≠ 0 ∧
      sel running.blk.rxq = some (qe 3 (fr 5 3 1 1 0)) ∧ (fr 5 3 1 1 0).ty = 1) ∧
    ∃ s : State, s.blk.engMode = .rx ∧ s.blk.engCallout = .none ∧ s.blk.engRem ≠ 0 ∧
      sel s.blk.rxq = some (qe 9 (fr 1 9 0 1 7)) ∧ (fr 1 9 0 1 7).ty = 0 ∧
      s.params.dupLookup = .newest ∧ s.params.pqTie = .stable ∧ s.blk.reg.length = 2 :=
  ⟨by decide, { running with
    blk.rxq := [qe 9 (fr 1 9 0 1 7)],
    blk.reg := [{ msgId := 9, cb := 1, ctx := 0 }, { msgId := 9, cb := 2, ctx := 0 }] },
    by decide⟩

theorem witness_ReceivedFrameIsValidAndMasked :
    ({ wire := 0xFFFF, dlc := 8, data := 1 } : RxRecord).dlc.toNat ≤ 8 := by decide

theorem witness_RxIrqDeliversUntilFull :
    (∀ r ∈ [({ wire := 0x0E9, dlc := 8, data := 1 } : RxRecord)], r.dlc.toNat ≤ 8) ∧
    (booted.params.pqTie = .stable ∧ booted.blk.init = true ∧ booted.blk.rxqInit = true ∧
      booted.blk.rxq.length ≤ booted.blk.rxqCap.toNat) ∧
    (full.params.pqTie = .stable ∧ full.blk.init = true ∧ full.blk.rxqInit = true ∧
      full.blk.rxq.length = full.blk.rxqCap.toNat) ∧
    ∃ s : State, s.params.pqTie = .any ∧ s.blk.init = true ∧ s.blk.rxqInit = true ∧
      s.blk.rxq.length ≤ s.blk.rxqCap.toNat :=
  ⟨by decide, by decide, by decide, { booted with params.pqTie := .any }, by decide⟩

theorem witness_TxReadyIrqResult :
    State.reset.blk.init = false ∧ booted.blk.init = true := by decide

theorem witness_CsrReadResult : (0x0F#8).toNat > 0x0E ∧ (0xFF#8).toNat > 0x0E := by decide

theorem witness_CsrWriteResult :
    (0x0F#8).toNat > 0x0E ∧
    (0x02#8).toNat ∈ [0x02, 0x03, 0x04, 0x09, 0x0A, 0x0B, 0x0C, 0x0D, 0x0E] ∧
    (0x0E#8).toNat ∈ [0x02, 0x03, 0x04, 0x09, 0x0A, 0x0B, 0x0C, 0x0D, 0x0E] := by decide

theorem witness_BusyWhileCalloutOutstanding :
    inHandler.blk.engCallout ≠ .none ∧
    (Instr.processEvent 0x11 0).opcode ∈
      [Opcode.processEvent, .ackTick, .canInit, .pqInit, .regInit] ∧
    Instr.pqSize.opcode ∉ [Opcode.processEvent, .ackTick, .canInit, .pqInit, .regInit] ∧
    ∃ t, exec .pqSize inHandler = .next t ∧ t.hostOut = inHandler.hostOut ++ [[0#32]] :=
  ⟨by decide, by decide, by decide, _, rfl, by decide⟩

theorem witness_UninitializedGating :
    (State.reset.blk.init = false ∧ State.reset.blk.rxqInit = false ∧
      State.reset.blk.regInit = false ∧ State.reset.blk.engCallout = .none) ∧
    (Instr.transmit (fr 2 3 0 1 0) 0 0).opcode = .transmit ∧
    Instr.ackTick.opcode ∈ [Opcode.processEvent, .ackTick] ∧
    (∀ r ∈ [({ wire := 0, dlc := 8, data := 0 } : RxRecord)], r.dlc.toNat ≤ 8) ∧
    Instr.pqPop.opcode ∈ [Opcode.pqPush, .pqPop, .pqPeek, .pqSize] ∧
    (Instr.regLookup 1).opcode ∈ [Opcode.regDefault, .regAdd, .regLookup] ∧
    ∃ t, exec (.csrRead 0) State.reset = .next t ∧
      t.hostOut = State.reset.hostOut ++ [[0#32, 0#32]] :=
  ⟨by decide, by decide, by decide, by decide, by decide, by decide, _, rfl, by decide⟩

theorem witness_ResetValues :
    (∃ s : State, s.dueTurns = [.reset] ∧ s.blk.engCallout ≠ .none) ∧
    State.reset.blk = State.reset.blk ∧ (0x00#8).toNat ≤ 0x0E ∧ (0x0E#8).toNat ≤ 0x0E :=
  ⟨⟨{ inHandler with turns := [.reset] }, by decide⟩, by decide⟩

theorem witness_ResetDiscardsWhatIsInFlight :
    ∃ s : State, s.dueTurns = [.reset] ∧ s.blk.engCallout ≠ .none :=
  ⟨{ inHandler with turns := [.reset] }, by decide⟩

theorem witness_BootReachesCleanEntry :
    State.reset.blk = State.reset.blk ∧ State.reset.evq = [] ∧ (15#16).toNat ≤ 15 ∧
    badEventIds 0x10 0x11 0x12 = false ∧ (9#16).toNat = (8#16).toNat + 1 ∧
    (8#16).toNat ≤ State.reset.params.rxqMaxSlots ∧
    (8#16).toNat ≤ State.reset.params.regMaxEntries := by decide

theorem witness_StepKeepsInvariant :
    (Inv running ∧ ∃ t, step running = .next t) ∧
    Inv expiringOne ∧ ∃ t, step expiringOne = .next t :=
  ⟨⟨running_inv, _, rfl⟩, expiringOne_inv, _, rfl⟩

theorem witness_InitFlagsAndParametersPersist :
    (∃ t, step running = .next t) ∧ running.dueTurns.head? ≠ some .reset ∧
    running.blk.init = true ∧ running.blk.rxqInit = true ∧ running.blk.regInit = true :=
  ⟨⟨_, rfl⟩, by decide⟩

theorem witness_IsrOnlyPushesAndRaises :
    decode .isr [0x70000000#32] = .ok (.rxIrq []) ∧
    ∃ s : State, s.dueTurns = [.isr [0x71000000#32]] ∧ ∃ t, step s = .next t :=
  ⟨by decide, { running with turns := [.isr [0x71000000#32]] }, by decide, _, rfl⟩

theorem witness_FailedCommandHasNoEffect :
    (∃ t, exec .pqPop booted = .next t ∧ t.hostOut = booted.hostOut ++ [[0x00040000#32]] ∧
      t.isrOut = booted.isrOut) ∧
    (∃ t, exec .txReadyIrq State.reset = .next t ∧
      t.isrOut = State.reset.isrOut ++ [[0x00060000#32]] ∧ t.hostOut = State.reset.hostOut) ∧
    respStatus [0x00040000#32] ≠ 0x00 ∧ respStatus [0x00060000#32] ≠ 0x00 :=
  ⟨⟨_, rfl, by decide⟩, ⟨_, rfl, by decide⟩, by decide⟩

theorem witness_OneResponsePerHostCommand :
    ∃ s : State, Inv s ∧ s.dueTurns.head? ≠ some .reset ∧ hostCommandTaken s = true ∧
      ∃ t, step s = .next t :=
  ⟨{ inHandler with turns := [.host [0x53050000#32]] },
    inHandler_inv.of_eq rfl rfl rfl rfl, by decide, by decide, _, rfl⟩

theorem witness_CommandsNeverCallOut :
    (∃ t, exec (.handlerReturn 5 0) inHandler = .next t) ∧
    (∃ s : State, s.turnCycle = [.process, .forward] ∧ s.blk.engCallout ≠ .none ∧
      ∀ u ∈ s.turns ++ s.turnCycle, u ≠ .reset ∧
        ∀ ws st r, u = .host ws → decode .host ws ≠ .ok (.handlerReturn st r)) ∧
    (∃ (s : State) (rest : List Turn), s.blk.engCallout ≠ .none ∧
      s.dueTurns = .host [0x53050000#32] :: rest ∧
      decode .host [0x53050000#32] = .ok (.handlerReturn 5 0)) ∧
    ∃ (s : State) (rest : List Turn), s.blk.engCallout ≠ .none ∧ s.dueTurns = .reset :: rest :=
  ⟨⟨_, rfl⟩,
    ⟨{ inHandler with turns := [], turnCycle := [.process, .forward] }, rfl, by decide, by simp⟩,
    ⟨{ inHandler with turns := [.host [0x53050000#32]] }, [], by decide, rfl, by decide⟩,
    ⟨{ inHandler with turns := [.reset] }, [], by decide, rfl⟩⟩

theorem witness_FaultEventNeverRaised :
    (∃ s : State, Inv s ∧ (∀ e rest, s.dueTurns ≠ .collaborator e :: rest) ∧
      ∃ t, step s = .next t ∧ ({ id := 0x11, data := 0 } : Event) ∈ t.evq) ∧
    (State.reset.blk.init = false ∧
      ∃ t, exec (.canInit 2 0x10 0x11 0x12) State.reset = .next t ∧ t.blk.init = true) ∧
    ∃ s : State, Inv s ∧ s.blk.init = true ∧ s.blk.engCallout = .none :=
  ⟨⟨{ inHandler with turns := [.isr [0x71000000#32]] }, inHandler_inv.of_eq rfl rfl rfl rfl,
    fun _ _ h => by simp [State.dueTurns] at h, _, rfl, by decide⟩, ⟨rfl, _, rfl, by decide⟩,
    running, running_inv, by decide⟩

theorem witness_TxFifoIsStrictlyFifo : ∃ t, step running = .next t := ⟨_, rfl⟩

theorem witness_StickyFlagsStaySet :
    ∃ s : State, (∃ t, step s = .next t) ∧ s.dueTurns.head? ≠ some .reset ∧
      (∀ ws v rest, s.dueTurns = .host ws :: rest → decode .host ws = .ok (.csrWrite 0x01 v) →
        v.getLsbD 5 = false) ∧
      s.blk.status.getLsbD 5 = true := by
  refine ⟨{ booted with blk.status := 0x30#6, turns := [.host [0x61010000#32, 0x10#32]] },
    ⟨_, rfl⟩, by decide, ?_, by decide⟩
  intro ws v rest h hd
  have hw : ws = [0x61010000#32, 0x10#32] := by
    have := (List.cons.inj h).1
    exact (Turn.host.inj this).symm
  subst hw
  have : decode .host [0x61010000#32, 0x10#32] = .ok (.csrWrite 0x01 0x10) := by decide
  rw [this] at hd
  cases hd
  decide

theorem witness_BatchReachesItsResponse :
    (running.blk.hostWaiting = true ∧ running.blk.engMode = .rx) ∧
    expiringOne.blk.hostWaiting = true ∧ expiringOne.blk.engMode = .tick := by decide

/-- The main loop before a busy transport, with one frame to send and its TX event raised. -/
def looping : State :=
  { booted with
    turnCycle := [.process, .forward], answerCycle := [.busy],
    blk.txq := [fr 2 3 0 1 0x55], evq := [{ id := 0x11, data := 0 }] }

theorem witness_BusyTransportHangsUnlessBounded :
    DrainsBeforeBusyTransport looping ∧ looping.blk.init = true ∧ looping.blk.engMode = .idle ∧
    looping.blk.engCallout = .none ∧ looping.blk.txEventId ≠ looping.blk.rxEventId ∧
    looping.blk.txq = [fr 2 3 0 1 0x55] ∧ 1 ≤ looping.params.evqCapacity ∧
    looping.evq = [{ id := looping.blk.txEventId, data := 0 }] ∧ looping.blk.txRetryLimit = 0 ∧
    ({ looping with blk.txRetryLimit := 0xFFFF } : State).blk.txRetryLimit ≠ 0 :=
  ⟨⟨rfl, rfl, rfl, rfl⟩, by decide⟩

/-- After one round of the loop the event is raised again and the frame is still at the head. -/
theorem test_busyLoop :
    (runSteps 2 looping).map (fun t => (t.evq, t.blk.txq, t.blk.txFailCount)) =
      some ([{ id := 0x11, data := 0 }], [fr 2 3 0 1 0x55], 1) := by decide

end Sys2Proof.Tests
end

section
/-! The byte serialisation of words (20_memory.md R82): byte j of a word, a word read back from its
bytes, and from there a word sequence and a command read back from theirs. -/

namespace Sys2Proof.Machine

open Sys2Proof

/-- The four bytes of a word, most significant first, put together again. -/
theorem word_of_extracted_bytes (w : Word) :
    w.extractLsb' 24 8 ++ w.extractLsb' 16 8 ++ w.extractLsb' 8 8 ++ w.extractLsb' 0 8 = w := by
  rw [BitVec.extractLsb'_append_extractLsb'_eq_extractLsb' (by rfl),
    BitVec.extractLsb'_append_extractLsb'_eq_extractLsb' (by rfl),
    BitVec.extractLsb'_append_extractLsb'_eq_extractLsb' (by rfl), BitVec.extractLsb'_eq_self]

theorem wordBytes_getElem? (w : Word) (j : Nat) (hj : j < 4) :
    (wordBytes w)[j]? = some (w.extractLsb' (8 * j) 8) := by
  match j, hj with
  | 0, _ => rfl
  | 1, _ => rfl
  | 2, _ => rfl
  | 3, _ => rfl

@[simp] theorem wordsOfBytes_wordBytes_append (w : Word) (bs : List Byte) :
    wordsOfBytes (wordBytes w ++ bs) = (wordsOfBytes bs).map (w :: ·) := by
  simp only [wordBytes, List.cons_append, List.nil_append, wordsOfBytes, word_of_extracted_bytes]

@[simp] theorem wordsOfBytes_flatMap_wordBytes (ws : List Word) :
    wordsOfBytes (ws.flatMap wordBytes) = some ws := by
  induction ws with
  | nil => rfl
  | cons w ws ih => simp [ih]

theorem decodeBytes_flatMap_wordBytes (p : Port) (ws : List Word) :
    decodeBytes p (ws.flatMap wordBytes) = decode p ws := by
  simp [decodeBytes]

/-- Settles O5: a word is its four bytes put together again, and so word by word a sequence. -/
theorem bytesCarryWordsLittleEndian : Obligations.BytesCarryWordsLittleEndian :=
  ⟨wordBytes_getElem?, wordsOfBytes_flatMap_wordBytes, decodeBytes_flatMap_wordBytes⟩

end Sys2Proof.Machine
end

section
/-! The payload views (20_memory.md R80): a wide field is its u8 fields put together, and the bytes
handed to the bus are the u8 fields below the dlc. -/

namespace Sys2Proof.Machine

open Sys2Proof

theorem u16Field_eq_bytes (d : BitVec 64) (i : Nat) :
    u16Field d i = u8Field d (2 * i + 1) ++ u8Field d (2 * i) := by
  have lowByte : 16 * i = 8 * (2 * i) := by omega
  simp only [u16Field, u8Field]
  rw [BitVec.extractLsb'_append_extractLsb'_eq_extractLsb' (Nat.mul_succ 8 (2 * i)), lowByte]

theorem u32Field_eq_bytes (d : BitVec 64) (i : Nat) :
    u32Field d i =
      u8Field d (4 * i + 3) ++ u8Field d (4 * i + 2) ++ u8Field d (4 * i + 1) ++
        u8Field d (4 * i) := by
  have lowByte : 32 * i = 8 * (4 * i) := by omega
  simp only [u32Field, u8Field]
  rw [BitVec.extractLsb'_append_extractLsb'_eq_extractLsb' (Nat.mul_succ 8 (4 * i + 2)),
    BitVec.extractLsb'_append_extractLsb'_eq_extractLsb' (Nat.mul_succ 8 (4 * i + 1)),
    BitVec.extractLsb'_append_extractLsb'_eq_extractLsb' (Nat.mul_succ 8 (4 * i)), lowByte]

theorem busFrame_bytes_getElem? (f : Frame) (i : Nat) (hi : i < f.dlc.toNat) :
    (busFrame f).bytes[i]? = some (u8Field f.data i) := by
  simp [busFrame, busBytes, hi]

theorem busFrame_bytes_length (f : Frame) : (busFrame f).bytes.length = f.dlc.toNat := by
  simp [busFrame, busBytes]

/-- Settles O15: adjacent fields put together are the wider field, and bus byte i is u8 field i. -/
theorem payloadViewsAgree : Obligations.PayloadViewsAgree :=
  ⟨fun _ _ _ => rfl, fun d i _ => u16Field_eq_bytes d i, fun d i _ => u32Field_eq_bytes d i,
    busFrame_bytes_getElem?, busFrame_bytes_length⟩

end Sys2Proof.Machine
end

section
/-! The interrupt context (20_memory.md R87): the ISR port takes two commands only, and whatever it
is sent, its turn pushes to the RX queue and raises events and does nothing else. -/

namespace Sys2Proof.Machine

open Sys2Proof

theorem Opcode.eq_of_port_isr {op : Opcode} (h : op.port = .isr) :
    op = .rxIrq ∨ op = .txReadyIrq := by
  revert h; cases op <;> decide

/-- What decodes on a port comes from an opcode of that port (R102, R103). -/
theorem decodeOperands_of_decode {p : Port} {ws : List Word} {i : Instr} (h : decode p ws = .ok i) :
    ∃ op aux imm ops, op.port = p ∧ decodeOperands op aux imm ops = .ok i := by
  unfold decode at h
  split at h
  · cases h
  split at h
  · cases h
  split at h
  · cases h
  next hport =>
    iterate 3
      split at h
      · cases h
    exact ⟨_, _, _, _, not_not.1 hport, h⟩

/-- The commands of the ISR port (R102). -/
theorem decode_isr {ws : List Word} {i : Instr} (h : decode .isr ws = .ok i) :
    (∃ rs, i = .rxIrq rs) ∨ i = .txReadyIrq := by
  obtain ⟨op, aux, imm, ops, hport, hops⟩ := decodeOperands_of_decode h
  obtain rfl | rfl := Opcode.eq_of_port_isr hport
  · cases hrs : recordOperands ops with
    | error e => simp only [decodeOperands, hrs] at hops; cases hops
    | ok rs => simp only [decodeOperands, hrs] at hops; cases hops; exact .inl ⟨rs, rfl⟩
  · cases hops; exact .inr rfl

/-- What the interrupt context may do to s before it answers (R87): u has more entries queued,
perhaps RX_OVERRUN, and at most one event more. -/
structure IsrEffect (s u : State) : Prop where
  blk : ∃ xs st, u.blk = { s.blk with rxq := xs, status := st } ∧
    (∃ new, xs.Perm (s.blk.rxq ++ new)) ∧
    (st = s.blk.status ∨ st = s.blk.status ||| 0b000001#6)
  evq : ∃ ev, u.evq = s.evq ++ ev ∧ ev.length ≤ 1
  hostOut : u.hostOut = s.hostOut
  isrOut : u.isrOut = s.isrOut
  busLog : u.busLog = s.busLog
  answers : u.answers = s.answers
  turns : u.turns = s.turns

theorem IsrEffect.rxDeliver_foldl (rs : List RxRecord) (s : State) (n : Nat) :
    IsrEffect s (rs.foldl rxDeliver (s, n)).1 := by
  obtain ⟨xs, st, d, e, hperm, hst⟩ := rxDeliver_fold_frame rs s n
  rw [e]
  exact ⟨⟨xs, st, rfl, hperm, hst⟩, ⟨[], by simp⟩, rfl, rfl, rfl, rfl, rfl⟩

/-- Doing nothing is delivering no frame: so it is with every refused command. -/
theorem IsrEffect.refl (s : State) : IsrEffect s s := .rxDeliver_foldl [] s 0

theorem IsrEffect.evRaise {s u : State} (h : IsrEffect s u) (he : u.evq = s.evq) (id d : Half) :
    IsrEffect s (u.evRaise id d) := by
  obtain ⟨-, e⟩ | ⟨-, e⟩ := u.evRaise_cases id d <;> rw [e]
  · exact { h with evq := ⟨[{ id := id, data := d }], by simp [he]⟩ }
  · exact h

/-- No delivery raises an event. -/
theorem rxDeliver_foldl_evq (rs : List RxRecord) (s : State) (n : Nat) :
    (rs.foldl rxDeliver (s, n)).1.evq = s.evq := by
  obtain ⟨xs, st, d, e, -⟩ := rxDeliver_fold_frame rs s n
  rw [e]

theorem execRxIrq_isr {rs : List RxRecord} {s t : State} (h : execRxIrq rs s = .next t) :
    ∃ u st v, t = u.doneIsr st v ∧ IsrEffect s u := by
  unfold execRxIrq at h
  dsimp only at h
  split at h
  · cases h; exact ⟨s, _, _, rfl, .refl s⟩
  split at h
  · cases h; exact ⟨s, _, _, rfl, .refl s⟩
  have delivered := IsrEffect.rxDeliver_foldl rs s 0
  split at h <;> cases h
  · exact ⟨_, _, _, rfl, delivered.evRaise (rxDeliver_foldl_evq rs s 0) _ _⟩
  · exact ⟨_, _, _, rfl, delivered⟩

theorem execTxReadyIrq_isr {s t : State} (h : execTxReadyIrq s = .next t) :
    ∃ u st v, t = u.doneIsr st v ∧ IsrEffect s u := by
  unfold execTxReadyIrq at h
  split at h <;> cases h
  · exact ⟨s, _, _, rfl, .refl s⟩
  · exact ⟨_, _, _, rfl, (IsrEffect.refl s).evRaise rfl _ _⟩

/-- Whatever words the ISR port is sent, it answers one DONE after an effect that R87 allows. -/
theorem runCommand_isr {ws : List Word} {s t : State} (h : runCommand .isr ws s = .next t) :
    ∃ u st v, t = u.doneIsr st v ∧ IsrEffect s u := by
  unfold runCommand at h
  split at h
  next i hi =>
    obtain ⟨rs, rfl⟩ | rfl := decode_isr hi
    · exact execRxIrq_isr h
    · exact execTxReadyIrq_isr h
  next => cases h; exact ⟨s, _, _, rfl, .refl s⟩

/-- The ISR port is ready in every Engine state (R347): its turn is taken where it is due. -/
theorem step_of_due_isr {s : State} {ws : List Word} {rest : List Turn}
    (h : s.dueTurns = .isr ws :: rest) :
    step s = runCommand .isr ws { s with turns := rest } := by
  simp [step, nextTransition, h, isHostTurn, takeTurn]

/-- Settles O51: every command the ISR port takes, and the answer to words that are none, has an
effect that R87 allows. -/
theorem isrOnlyPushesAndRaises : Obligations.IsrOnlyPushesAndRaises := by
  refine ⟨fun ws i h => ?_, fun s t ws rest hdue hstep => ?_⟩
  · obtain ⟨rs, rfl⟩ | rfl := decode_isr h <;> simp [Instr.opcode]
  · rw [step_of_due_isr hdue] at hstep
    obtain ⟨u, status, val, rfl, eff⟩ := runCommand_isr hstep
    obtain ⟨xs, st, hblk, ⟨new, hperm⟩, hst⟩ := eff.blk
    obtain ⟨ev, hev, hone⟩ := eff.evq
    refine ⟨xs, st, new, ev, hblk, hperm, hst, hev, hone, eff.hostOut, eff.busLog, eff.answers,
      eff.turns, doneWords status val [], ?_⟩
    rw [State.doneIsr_isrOut, eff.isrOut]

end Sys2Proof.Machine
end

section
/-! What is no command (30_encoding.md R102, R103): what decodes is a command of its opcode's row of
the table, so words that are a command of no row decode to nothing and get IllegalCommand. -/

namespace Sys2Proof.Machine

open Sys2Proof

/-! ## The header's row of the table -/

theorem rowPort_eq_port (op : Opcode) : rowPort op = op.port := by
  cases op <;> rfl

/-- The two opcodes of the ISR port (R102). -/
theorem Opcode.port_eq_isr_iff (op : Opcode) :
    op.port = .isr ↔ op.byte = 0x70 ∨ op.byte = 0x71 := by
  cases op <;> decide

/-- A row's match is its opcode with both operand fields 0. -/
theorem tableRow_match (op : Opcode) : (tableRow op).1 = header op 0 0 := by
  cases op <;> rfl

/-- A row's mask holds the opcode and the reserved fields. -/
theorem tableRow_mask (op : Opcode) :
    (tableRow op).2 =
      0xFF#8 ++ (if op.usesAux then 0#8 else 0xFF#8) ++
        (if op.usesImm then 0#16 else 0xFFFF#16) := by
  cases op <;> rfl

/-- A header with its reserved fields 0 fits its opcode's row. -/
theorem fitsRow_header {op : Opcode} {aux : Byte} {imm : Half}
    (haux : op.usesAux = false → aux = 0) (himm : op.usesImm = false → imm = 0) :
    fitsRow op (header op aux imm) := by
  have hopc : op.byte &&& 0xFF#8 = op.byte := BitVec.and_allOnes
  have haux' : aux &&& (if op.usesAux then 0#8 else 0xFF#8) = 0#8 := by
    cases h : op.usesAux <;> simp [h, haux]
  have himm' : imm &&& (if op.usesImm then 0#16 else 0xFFFF#16) = 0#16 := by
    cases h : op.usesImm <;> simp [h, himm]
  rw [fitsRow, tableRow_match, tableRow_mask, header, header, BitVec.and_append, BitVec.and_append,
    hopc, haux', himm']
  rfl

theorem rowWords_eq_operandWords (op : Opcode) (h : Word) :
    rowWords op h = op.operandWords (hdrAux h) + 1 := by
  cases op
  case rxIrq => simp [rowWords, Opcode.operandWords, hdrAux, Nat.shiftRight_eq_div_pow]; omega
  all_goals rfl

/-! ## The reserved bits of the operand words (R106) -/

/-! Each operand form is read exactly where its reserved bits are 0. -/

theorem byteOperand_bind_eq_ok {w : Word} {f : Byte → Except Reject Instr} {i : Instr} :
    byteOperand w >>= f = .ok i ↔
      w &&& 0xFFFFFF00#32 = 0#32 ∧ f (w.extractLsb' 0 8) = .ok i := by
  rw [← top_field_eq_zero_iff (lo := 8) (n := 24) w _ rfl (by decide), byteOperand]
  split <;> simp [*, bind, Except.bind]

theorem hiHalf_eq_zero_iff (w : Word) : hiHalf w = 0#16 ↔ w &&& 0xFFFF0000#32 = 0#32 :=
  top_field_eq_zero_iff w _ rfl (by decide)

theorem halfOperand_bind_eq_ok {w : Word} {f : Half → Except Reject Instr} {i : Instr} :
    halfOperand w >>= f = .ok i ↔ w &&& 0xFFFF0000#32 = 0#32 ∧ f (loHalf w) = .ok i := by
  rw [← hiHalf_eq_zero_iff, halfOperand]
  split <;> simp [*, bind, Except.bind]

/-- A frame's one reserved field is the upper half of its last word (R41). -/
theorem frameOperand_bind_eq_ok {w0 w1 w2 w3 : Word} {f : Frame → Except Reject Instr} {i : Instr} :
    frameOperand w0 w1 w2 w3 >>= f = .ok i ↔
      w3 &&& 0xFFFF0000#32 = 0#32 ∧
        f { sourceId := loHalf w2, msgId := hiHalf w2, ty := w3.extractLsb' 0 8,
            dlc := w3.extractLsb' 8 8, data := w1 ++ w0 } = .ok i := by
  rw [← hiHalf_eq_zero_iff, frameOperand]
  split <;> simp [*, bind, Except.bind]

/-- Operand words with the bits of a mask, one for each position, all 0. -/
def MaskedZero (mask : Nat → Word) (ws : List Word) : Prop :=
  ∀ j w, ws[j]? = some w → w &&& mask j = 0

@[simp] theorem maskedZero_nil (mask : Nat → Word) : MaskedZero mask [] := by
  simp [MaskedZero]

@[simp] theorem maskedZero_cons (mask : Nat → Word) (w : Word) (ws : List Word) :
    MaskedZero mask (w :: ws) ↔ w &&& mask 0 = 0 ∧ MaskedZero (fun j => mask (j + 1)) ws := by
  refine ⟨fun h => ⟨h 0 w rfl, fun j => h (j + 1)⟩, fun ⟨h0, hs⟩ j => ?_⟩
  cases j with
  | zero => rintro _ ⟨⟩; exact h0
  | succ j => exact hs j

theorem record_reservedBits (dlc : BitVec 4) (wire : Half) :
    (0#12 ++ dlc ++ wire) &&& 0xFFF00000#32 = 0#32 := by
  have hmask : 0xFFF00000#32 = 0xFFF#12 ++ 0#4 ++ 0#16 := by rfl
  rw [hmask, BitVec.and_append, BitVec.and_append, BitVec.zero_and, BitVec.and_zero,
    BitVec.and_zero]
  rfl

/-- Of a record's three words only the first has reserved bits (R106). -/
theorem maskedZero_records (rs : List RxRecord) :
    MaskedZero (reservedBits .rxIrq) (rs.flatMap RxRecord.words) := by
  have hperiod : (fun j => reservedBits .rxIrq (j + 1 + 1 + 1)) = reservedBits .rxIrq := by
    funext j; simp [reservedBits, Nat.add_assoc]
  induction rs with
  | nil => exact maskedZero_nil _
  | cons r rs ih =>
    simp only [List.flatMap_cons, RxRecord.words, List.cons_append, List.nil_append,
      maskedZero_cons, hperiod]
    exact ⟨record_reservedBits r.dlc r.wire, BitVec.and_zero, BitVec.and_zero, ih⟩

theorem recordOperands_of_decodeOperands {aux : Byte} {imm : Half} {ws : List Word} {i : Instr}
    (h : decodeOperands .rxIrq aux imm ws = .ok i) :
    ∃ rs, recordOperands ws = .ok rs ∧ i = .rxIrq rs := by
  cases hrs : recordOperands ws with
  | error e => simp only [decodeOperands, hrs] at h; cases h
  | ok rs => simp only [decodeOperands, hrs] at h; cases h; exact ⟨rs, rfl, rfl⟩

/-- What an opcode's operand words are read as is its command, and their reserved bits are 0: the
case split is over RX_IRQ, the rows without operand words, those without reserved bits in them, and
those with operand forms that have some. -/
theorem decodeOperands_row {op : Opcode} {aux : Byte} {imm : Half} {ws : List Word} {i : Instr}
    (h : decodeOperands op aux imm ws = .ok i) (hlen : ws.length = op.operandWords aux) :
    i.opcode = op ∧ MaskedZero (reservedBits op) ws := by
  cases op
  case rxIrq =>
    obtain ⟨rs, hrs, rfl⟩ := recordOperands_of_decodeOperands h
    exact ⟨rfl, words_of_recordOperands hrs ▸ maskedZero_records rs⟩
  case idDecode | pqPop | pqPeek | pqSize | regInit | regLookup | ackTick | handlerReturn | csrRead
      | txReadyIrq =>
    cases h
    exact ⟨rfl, by simp [List.length_eq_zero_iff.1 hlen]⟩
  case idEncode | packU32 | packU64 | regDefault | regAdd | csrWrite =>
    simp only [decodeOperands] at h
    split at h <;> cases h
    exact ⟨rfl, fun _ _ _ => BitVec.and_zero⟩
  case packU8 | packU16 | pqInit | pqPush | canInit | transmit | processEvent =>
    simp only [decodeOperands] at h
    split at h
    · simp only [byteOperand_bind_eq_ok, halfOperand_bind_eq_ok, frameOperand_bind_eq_ok] at h
      refine ⟨?_, by simp [reservedBits, h]⟩
      repeat replace h := h.2
      cases h
      rfl
    · cases h

/-! ## Decoding -/

/-- What decode checks, from the header to the operand words (R103). -/
theorem decode_cons_eq_ok_iff {p : Port} {h : Word} {ops : List Word} {i : Instr} :
    decode p (h :: ops) = .ok i ↔
      ∃ op, Opcode.ofByte (hdrOpc h) = some op ∧ op.port = p ∧
        (op.usesAux = false → hdrAux h = 0) ∧ (op.usesImm = false → hdrImm h = 0) ∧
        ops.length = op.operandWords (hdrAux h) ∧
        decodeOperands op (hdrAux h) (hdrImm h) ops = .ok i := by
  cases hop : Opcode.ofByte (hdrOpc h) with
  | none => simp [decode, hop]
  | some op =>
    simp only [decode, hop, Option.some.injEq, exists_eq_left']
    split_ifs with hport haux himm hlen
    · simp [hport]
    · simp [haux]
    · simp [himm]
    · simp [hlen]
    · simp only [ne_eq, not_not, not_and] at hport haux himm hlen
      exact ⟨fun hi => ⟨hport, haux, himm, hlen, hi⟩, fun ⟨_, _, _, _, hi⟩ => hi⟩

/-! ## Words that are no command (R102, R103) -/

/-- What decodes is a command of its opcode's row. -/
theorem isCommand_of_decode {p : Port} {h : Word} {ops : List Word} {i : Instr}
    (hi : decode p (h :: ops) = .ok i) : IsCommand i.opcode p h ops := by
  obtain ⟨op, hop, hport, haux, himm, hlen, hops⟩ := decode_cons_eq_ok_iff.1 hi
  obtain ⟨rfl, hmasked⟩ := decodeOperands_row hops hlen
  refine ⟨?_, (rowPort_eq_port _).trans hport, ?_, hmasked⟩
  · rw [← header_fields hop]
    exact fitsRow_header haux himm
  · rw [rowWords_eq_operandWords, List.length_cons, hlen]

theorem raiseOn_illegalCommand (p : Port) (s : State) :
    s.raiseOn p .illegalCommand = illegalAnswer p s := by
  cases p <;> rfl

theorem runCommand_of_not_decode {p : Port} {ws : List Word} (hd : ∀ i, decode p ws ≠ .ok i)
    (s : State) : runCommand p ws s = .next (illegalAnswer p s) := by
  unfold runCommand
  split
  next i hi => exact absurd hi (hd i)
  next => rw [raiseOn_illegalCommand]

theorem execRxIrq_of_long_record {rs : List RxRecord} (h : ∃ r ∈ rs, r.dlc.toNat > 8) (s : State) :
    execRxIrq rs s = .next (illegalAnswer .isr s) := by
  have hany : rs.any (fun r => decide (r.dlc.toNat > 8)) = true := by simpa using h
  rw [execRxIrq, if_pos hany, ← raiseOn_illegalCommand, State.raiseOn]

/-- A command decodes on the port of its opcode's byte only (R102). -/
theorem port_of_decode {p : Port} {h : Word} {ops : List Word} {i : Instr}
    (hi : decode p (h :: ops) = .ok i) : p = .isr ↔ hdrOpc h = 0x70 ∨ hdrOpc h = 0x71 := by
  obtain ⟨op, hop, rfl, -⟩ := decode_cons_eq_ok_iff.1 hi
  rw [← Opcode.byte_of_ofByte hop]
  exact Opcode.port_eq_isr_iff op

/-- Settles O4: no such words decode, since what decodes is a command of a row on its port. -/
theorem illegalCommandHasNoEffect : Obligations.IllegalCommandHasNoEffect := by
  refine ⟨fun p h ops s hno => ?_, fun rs s hlong => execRxIrq_of_long_record hlong s,
    fun h ops s => ⟨fun hopc => ?_, fun hopc => ?_⟩⟩
  · exact runCommand_of_not_decode (fun i hi => hno _ (isCommand_of_decode hi)) s
  · refine runCommand_of_not_decode (fun i hi => ?_) s
    cases (port_of_decode hi).2 hopc
  · exact runCommand_of_not_decode (fun i hi => not_or.2 hopc ((port_of_decode hi).1 rfl)) s

end Sys2Proof.Machine
end

section
/-! The identifier and frame codec (41_codec.md): the wire identifier's fields as numbers (R120), the
encode and its inverse (R140 to R142), and the frame a packer answers (R145 to R149). -/

namespace Sys2Proof.Machine

open Sys2Proof

/-! ## Slices and concatenations as numbers -/

theorem extractLsb'_toNat_eq_div {n : Nat} (x : BitVec n) (start len : Nat) :
    (x.extractLsb' start len).toNat = x.toNat / 2 ^ start % 2 ^ len := by
  rw [BitVec.extractLsb'_toNat, Nat.shiftRight_eq_div_pow]

/-- Appending puts the high part above the low one's width. -/
theorem append_toNat {m n : Nat} (hi : BitVec m) (lo : BitVec n) :
    (hi ++ lo).toNat = hi.toNat * 2 ^ n + lo.toNat := by
  rw [BitVec.toNat_append, ← Nat.shiftLeft_add_eq_or_of_lt lo.isLt, Nat.shiftLeft_eq]

/-! ## The fields of a wire identifier (R120) -/

theorem wireSource_toNat (w : Half) : (wireSource w).toNat = w.toNat % 16 := by
  rw [wireSource, BitVec.toNat_setWidth, extractLsb'_toNat_eq_div]
  omega

theorem wireType_toNat (w : Half) : (wireType w).toNat = w.toNat / 16 % 2 := by
  rw [wireType, BitVec.toNat_setWidth, extractLsb'_toNat_eq_div]
  omega

theorem wireMsg_toNat (w : Half) : (wireMsg w).toNat = w.toNat / 32 % 64 := by
  rw [wireMsg, BitVec.toNat_setWidth, extractLsb'_toNat_eq_div]
  omega

/-- The fields of every value are a valid triple (R121, R142). -/
theorem wire_fields_le (w : Half) :
    (wireSource w).toNat ≤ 15 ∧ (wireMsg w).toNat ≤ 63 ∧ (wireType w).toNat ≤ 1 := by
  rw [wireSource_toNat, wireMsg_toNat, wireType_toNat]
  omega

/-! ## Encode and decode are inverse (R142) -/

section Valid

variable {ty : Byte} {msg src : Half}

theorem wireSource_wireOf (hs : src.toNat ≤ 15) (hm : msg.toNat ≤ 63) (ht : ty.toNat ≤ 1) :
    wireSource (wireOf ty msg src) = src := by
  apply BitVec.eq_of_toNat_eq
  rw [wireSource_toNat, wireOf_toNat hs hm ht]
  omega

theorem wireType_wireOf (hs : src.toNat ≤ 15) (hm : msg.toNat ≤ 63) (ht : ty.toNat ≤ 1) :
    wireType (wireOf ty msg src) = ty := by
  apply BitVec.eq_of_toNat_eq
  rw [wireType_toNat, wireOf_toNat hs hm ht]
  omega

theorem wireMsg_wireOf (hs : src.toNat ≤ 15) (hm : msg.toNat ≤ 63) (ht : ty.toNat ≤ 1) :
    wireMsg (wireOf ty msg src) = msg := by
  apply BitVec.eq_of_toNat_eq
  rw [wireMsg_toNat, wireOf_toNat hs hm ht]
  omega

theorem wireOf_toNat_le (hs : src.toNat ≤ 15) (hm : msg.toNat ≤ 63) (ht : ty.toNat ≤ 1) :
    (wireOf ty msg src).toNat ≤ 0x7FF := by
  rw [wireOf_toNat hs hm ht]
  omega

end Valid

theorem wireOf_wire_fields {w : Half} (hw : w.toNat ≤ 0x7FF) :
    wireOf (wireType w) (wireMsg w) (wireSource w) = w := by
  obtain ⟨hs, hm, ht⟩ := wire_fields_le w
  apply BitVec.eq_of_toNat_eq
  rw [wireOf_toNat hs hm ht, wireSource_toNat, wireType_toNat, wireMsg_toNat]
  omega

theorem toNat_le_of_reserved_eq_zero {w : Half} (h : w.extractLsb' 11 5 = 0) :
    w.toNat ≤ 0x7FF := by
  have hz : w.toNat / 2 ^ 11 % 2 ^ 5 = 0 := by
    rw [← extractLsb'_toNat_eq_div, h]
    rfl
  omega

/-- Settles O12: decode undoes encode on the valid triples and encode undoes decode up to 0x7FF, so
the decoded triple is the one that encodes to a wire id. -/
theorem wireIdRoundTrip : Obligations.WireIdRoundTrip := by
  refine ⟨fun ty msg src hs hm ht => ⟨wireSource_wireOf hs hm ht, wireType_wireOf hs hm ht,
      wireMsg_wireOf hs hm ht, wireOf_toNat_le hs hm ht⟩,
    fun w h => wireOf_wire_fields (toNat_le_of_reserved_eq_zero h), fun w hw => ?_⟩
  obtain ⟨hs, hm, ht⟩ := wire_fields_le w
  refine ⟨(wireType w, wireMsg w, wireSource w), ⟨ht, hm, hs, wireOf_wire_fields hw⟩, ?_⟩
  rintro ⟨ty, msg, src⟩ ⟨ht', hm', hs', rfl⟩
  rw [wireType_wireOf hs' hm' ht', wireMsg_wireOf hs' hm' ht', wireSource_wireOf hs' hm' ht']

/-! ## ID_ENCODE and ID_DECODE (R140, R141) -/

theorem idWord_toNat (msg src : Half) :
    (idWord msg src).toNat = msg.toNat * 65536 + src.toNat :=
  append_toNat msg src

theorem byteWord_toNat (b : Byte) : (byteWord b).toNat = b.toNat := by
  rw [byteWord, BitVec.toNat_setWidth]
  omega

/-- The word {msg, src} that ID_DECODE answers. -/
theorem idWord_wire_fields (w : Half) :
    idWord (wireMsg w) (wireSource w) =
      BitVec.ofNat 32 (w.toNat / 32 % 64 * 65536 + w.toNat % 16) := by
  rw [← wireMsg_toNat, ← wireSource_toNat, ← idWord_toNat, BitVec.ofNat_toNat, BitVec.setWidth_eq]

/-- The word that holds the type that ID_DECODE answers. -/
theorem byteWord_wireType (w : Half) :
    byteWord (wireType w) = BitVec.ofNat 32 (w.toNat / 16 % 2) := by
  rw [← wireType_toNat, ← byteWord_toNat, BitVec.ofNat_toNat, BitVec.setWidth_eq]

theorem execIdEncode_of_out_of_range {ty : Byte} {msg src : Half}
    (h : src.toNat > 15 ∨ msg.toNat > 63 ∨ ty.toNat > 1) (s : State) :
    execIdEncode ty msg src s = .next (s.doneHost .invalidArgument 0 []) :=
  if_pos h

theorem execIdEncode_of_in_range {ty : Byte} {msg src : Half} (hs : src.toNat ≤ 15)
    (hm : msg.toNat ≤ 63) (ht : ty.toNat ≤ 1) (s : State) :
    execIdEncode ty msg src s =
      .next (s.doneHost .ok
        (BitVec.ofNat 16 (msg.toNat * 32 + ty.toNat * 16 + src.toNat)) []) := by
  have inRange : ¬(src.toNat > 15 ∨ msg.toNat > 63 ∨ ty.toNat > 1) := by omega
  rw [execIdEncode, if_neg inRange, ← wireOf_toNat hs hm ht, BitVec.ofNat_toNat,
    BitVec.setWidth_eq]

theorem execIdDecode_eq (w : Half) (s : State) :
    execIdDecode w s =
      .next (s.doneHost .ok 0
        [BitVec.ofNat 32 (w.toNat / 32 % 64 * 65536 + w.toNat % 16),
         BitVec.ofNat 32 (w.toNat / 16 % 2)]) := by
  rw [execIdDecode, idWord_wire_fields, byteWord_wireType]

/-- Settles O11: the range check decides between the two answers of ID_ENCODE, and the fields that
ID_DECODE answers are quotients and remainders of the value. -/
theorem idEncodeAndDecodeResult : Obligations.IdEncodeAndDecodeResult :=
  ⟨fun _ _ _ s => ⟨rfl, fun h => execIdEncode_of_out_of_range h s,
      fun hs hm ht => execIdEncode_of_in_range hs hm ht s⟩,
    fun w s => ⟨rfl, execIdDecode_eq w s⟩⟩

/-! ## Payloads from their fields (R146 to R148) -/

theorem u8Field_toNat (d : BitVec 64) (i : Nat) :
    (u8Field d i).toNat = d.toNat / 2 ^ (8 * i) % 2 ^ 8 :=
  extractLsb'_toNat_eq_div d (8 * i) 8

theorem u16Field_toNat (d : BitVec 64) (i : Nat) :
    (u16Field d i).toNat = d.toNat / 2 ^ (16 * i) % 2 ^ 16 :=
  extractLsb'_toNat_eq_div d (16 * i) 16

theorem dataOfBytes_toNat (b0 b1 b2 b3 b4 b5 b6 b7 : Byte) :
    (dataOfBytes b0 b1 b2 b3 b4 b5 b6 b7).toNat =
      b7.toNat * 2 ^ 56 + b6.toNat * 2 ^ 48 + b5.toNat * 2 ^ 40 + b4.toNat * 2 ^ 32 +
        b3.toNat * 2 ^ 24 + b2.toNat * 2 ^ 16 + b1.toNat * 2 ^ 8 + b0.toNat := by
  rw [dataOfBytes, append_toNat, append_toNat, append_toNat, append_toNat, append_toNat,
    append_toNat, append_toNat]
  omega

theorem dataOfHalves_toNat (h0 h1 h2 h3 : Half) :
    (dataOfHalves h0 h1 h2 h3).toNat =
      h3.toNat * 2 ^ 48 + h2.toNat * 2 ^ 32 + h1.toNat * 2 ^ 16 + h0.toNat := by
  rw [dataOfHalves, append_toNat, append_toNat, append_toNat]
  omega

theorem u8Field_dataOfBytes (b0 b1 b2 b3 b4 b5 b6 b7 : Byte) (i : Fin 8) :
    u8Field (dataOfBytes b0 b1 b2 b3 b4 b5 b6 b7) i = [b0, b1, b2, b3, b4, b5, b6, b7][i] := by
  apply BitVec.eq_of_toNat_eq
  rw [u8Field_toNat, dataOfBytes_toNat]
  fin_cases i <;> dsimp <;> omega

theorem u16Field_dataOfHalves (h0 h1 h2 h3 : Half) (i : Fin 4) :
    u16Field (dataOfHalves h0 h1 h2 h3) i = [h0, h1, h2, h3][i] := by
  apply BitVec.eq_of_toNat_eq
  rw [u16Field_toNat, dataOfHalves_toNat]
  fin_cases i <;> dsimp <;> omega

theorem u32Field_zero_dataOfWords (w0 w1 : Word) : u32Field (dataOfWords w0 w1) 0 = w0 :=
  BitVec.extractLsb'_append_eq_right

theorem u32Field_one_dataOfWords (w0 w1 : Word) : u32Field (dataOfWords w0 w1) 1 = w1 :=
  BitVec.extractLsb'_append_eq_left

/-! ## The words of a packer (R104, R145) -/

theorem byteWord_eq_append (b : Byte) : byteWord b = 0#24 ++ b :=
  BitVec.setWidth_eq_append (by decide)

theorem halfWord_eq_append (h : Half) : halfWord h = 0#16 ++ h :=
  BitVec.setWidth_eq_append (by decide)

/-- The answer that every packer gives for the payload it has built (R145). -/
theorem pack_eq (ty : Byte) (msg src : Half) (d : BitVec 64) (s : State) :
    pack ty msg src d s =
      s.doneHost .ok 0 [u32Field d 0, u32Field d 1, msg ++ src,
        0#16 ++ dlcOf d s.blk.dlcMode ++ ty] :=
  rfl

theorem encode_packU8 (ty : Byte) (msg src : Half) (b0 b1 b2 b3 b4 b5 b6 b7 : Byte) :
    encode (.packU8 ty msg src b0 b1 b2 b3 b4 b5 b6 b7) =
      [0x12#8 ++ ty ++ 0#16, msg ++ src, 0#24 ++ b0, 0#24 ++ b1, 0#24 ++ b2, 0#24 ++ b3,
       0#24 ++ b4, 0#24 ++ b5, 0#24 ++ b6, 0#24 ++ b7] := by
  simp only [← byteWord_eq_append]
  rfl

theorem encode_packU16 (ty : Byte) (msg src : Half) (h0 h1 h2 h3 : Half) :
    encode (.packU16 ty msg src h0 h1 h2 h3) =
      [0x13#8 ++ ty ++ 0#16, msg ++ src, 0#16 ++ h0, 0#16 ++ h1, 0#16 ++ h2, 0#16 ++ h3] := by
  simp only [← halfWord_eq_append]
  rfl

theorem exec_packU32 (ty : Byte) (msg src : Half) (w0 w1 : Word) (s : State) :
    exec (.packU32 ty msg src w0 w1) s =
      .next (s.doneHost .ok 0 [w0, w1, msg ++ src,
        0#16 ++ dlcOf (dataOfWords w0 w1) s.blk.dlcMode ++ ty]) := by
  rw [exec, execPackU32, pack_eq, u32Field_zero_dataOfWords, u32Field_one_dataOfWords]

/-- Settles O14: the payload is the operands put together, and the answer is that of `pack_eq`. -/
theorem packersBuildTheFrame : Obligations.PackersBuildTheFrame := by
  refine ⟨fun ty msg src b0 b1 b2 b3 b4 b5 b6 b7 s => ?_, fun ty msg src h0 h1 h2 h3 s => ?_,
    fun ty msg src w0 w1 s => ?_, fun ty msg src d s => ?_⟩
  · exact ⟨dataOfBytes b0 b1 b2 b3 b4 b5 b6 b7, encode_packU8 ..,
      u8Field_dataOfBytes b0 b1 b2 b3 b4 b5 b6 b7, congrArg Host.Outcome.next (pack_eq ..)⟩
  · exact ⟨dataOfHalves h0 h1 h2 h3, encode_packU16 .., u16Field_dataOfHalves h0 h1 h2 h3,
      congrArg Host.Outcome.next (pack_eq ..)⟩
  · exact ⟨dataOfWords w0 w1, rfl, u32Field_zero_dataOfWords w0 w1, u32Field_one_dataOfWords w0 w1,
      exec_packU32 ..⟩
  · exact ⟨rfl, congrArg Host.Outcome.next (pack_eq ..)⟩

end Sys2Proof.Machine
end

section
/-! The bounded priority queue (42_pqueue.md): which entry is served (R172), and what PQ_INIT,
PQ_PUSH, PQ_POP, PQ_PEEK and PQ_SIZE answer (R170 to R175). -/

namespace Sys2Proof.Machine

open Sys2Proof

/-! ## The service order (R172) -/

/-- sel picks the first entry of least key: the keys before it are greater, those after it not
smaller, and withoutSel leaves the rest in its order. -/
theorem sel_first_least {xs : List QEntry} {e : QEntry} (h : sel xs = some e) :
    ∃ l r, xs = l ++ e :: r ∧ withoutSel xs = l ++ r ∧
      (∀ x ∈ l, e.key.toNat < x.key.toNat) ∧ (∀ x ∈ r, e.key.toNat ≤ x.key.toNat) := by
  obtain ⟨l, r, hxs, hrest, hbefore, hleast⟩ := sel_split h
  refine ⟨l, r, hxs, hrest, fun x hx => ?_, fun x hx => hleast x (by simp [hxs, hx])⟩
  obtain ⟨y, hy, hlt⟩ := hbefore x hx
  exact (hleast y hy).trans_lt hlt

/-- The queue is written in the order of retie, and one draw is used up; nothing else changes. -/
theorem State.setRxq_reorders (s : State) (xs : List QEntry) :
    ∃ ys n, ys.Perm xs ∧ (s.params.pqTie = .stable → ys = xs) ∧
      s.setRxq xs = { s with blk.rxq := ys, draws := n } :=
  ⟨retie s.params.pqTie s.draws xs, s.draws + 1, retie_perm ..,
    fun hstable => by rw [hstable, retie_stable], rfl⟩

/-! ## What each command does in an initialised queue -/

section Initialised

variable {s : State}

theorem execPqPush_of_room (hi : s.blk.rxqInit = true)
    (hroom : s.blk.rxq.length ≠ s.blk.rxqCap.toNat) (prio : Half) (f : Frame) :
    execPqPush prio f s =
      .next ((s.setRxq (s.blk.rxq ++ [{ key := prio, frame := f }])).doneHost .ok 0 []) := by
  rw [execPqPush, if_neg (by simp [hi]), if_neg hroom]

theorem execPqPush_of_full (hi : s.blk.rxqInit = true)
    (hfull : s.blk.rxq.length = s.blk.rxqCap.toNat) (prio : Half) (f : Frame) :
    execPqPush prio f s = .next (s.doneHost .resourceExhausted 0 []) := by
  rw [execPqPush, if_neg (by simp [hi]), if_pos hfull]
  rfl

theorem execPqPop_of_empty (hi : s.blk.rxqInit = true) (hq : s.blk.rxq = []) :
    execPqPop s = .next (s.doneHost .empty 0 []) := by
  rw [execPqPop, if_neg (by simp [hi]), hq]
  rfl

theorem execPqPeek_of_empty (hi : s.blk.rxqInit = true) (hq : s.blk.rxq = []) :
    execPqPeek s = .next (s.doneHost .empty 0 []) := by
  rw [execPqPeek, if_neg (by simp [hi]), hq]
  rfl

theorem execPqPop_of_sel (hi : s.blk.rxqInit = true) {e : QEntry} (he : sel s.blk.rxq = some e) :
    execPqPop s =
      .next ((s.setRxq (withoutSel s.blk.rxq)).doneHost .ok e.key e.frame.words) := by
  rw [execPqPop, if_neg (by simp [hi]), he]

theorem execPqPeek_of_sel (hi : s.blk.rxqInit = true) {e : QEntry} (he : sel s.blk.rxq = some e) :
    execPqPeek s = .next (s.doneHost .ok e.key e.frame.words) := by
  rw [execPqPeek, if_neg (by simp [hi]), he]

theorem execPqSize_of_init (hi : s.blk.rxqInit = true) :
    execPqSize s = .next (s.doneHost .ok (BitVec.ofNat 16 s.blk.rxq.length) []) := by
  rw [execPqSize, if_neg (by simp [hi])]

end Initialised

/-! ## PQ_INIT (R170) -/

theorem encode_pqInit (n k : Half) :
    encode (.pqInit n k) = [0x20#8 ++ 0#8 ++ n, 0#16 ++ k] := by
  rw [← halfWord_eq_append]
  rfl

theorem execPqInit_of_callout {s : State} (hc : s.blk.engCallout ≠ .none) (n k : Half) :
    execPqInit n k s = .next (s.doneHost .busy 0 []) :=
  if_pos hc

theorem execPqInit_of_bad_sizes {s : State} (hc : s.blk.engCallout = .none) {n k : Half}
    (hbad : k.toNat ≠ n.toNat + 1 ∨ n.toNat > s.params.rxqMaxSlots) :
    execPqInit n k s = .next (s.doneHost .invalidArgument 0 []) := by
  rw [execPqInit, if_neg (not_not_intro hc), if_pos hbad]
  rfl

theorem execPqInit_of_sizes {s : State} (hc : s.blk.engCallout = .none) {n k : Half}
    (hk : k.toNat = n.toNat + 1) (hn : n.toNat ≤ s.params.rxqMaxSlots) :
    execPqInit n k s =
      .next (({ s with blk.rxqCap := n, blk.rxq := [], blk.rxqInit := true } : State).doneHost
        .ok 0 []) := by
  rw [execPqInit, if_neg (not_not_intro hc), if_neg (by omega)]

/-! ## The obligations -/

/-- Settles O17: where there is room the queue with the new entry at its end is written, in the
order that `State.setRxq_reorders` allows. -/
theorem pqPushResult : Obligations.PqPushResult := by
  refine fun prio f s => ⟨rfl, fun hi => if_pos hi,
    fun hi hfull => execPqPush_of_full hi hfull prio f, fun hi hroom => ?_⟩
  have hpush := execPqPush_of_room hi hroom prio f
  obtain ⟨ys, n, hperm, hstable, hset⟩ :=
    s.setRxq_reorders (s.blk.rxq ++ [{ key := prio, frame := f }])
  rw [hset] at hpush
  exact ⟨ys, n, hperm, hstable, hpush⟩

/-- Settles O18: both commands serve the entry of `sel_first_least`, and PQ_POP writes the rest back
in the order that `State.setRxq_reorders` allows. -/
theorem pqPopAndPeekResult : Obligations.PqPopAndPeekResult := by
  refine fun s => ⟨rfl, rfl, fun hi => ⟨if_pos hi, if_pos hi⟩,
    fun hi hq => ⟨execPqPop_of_empty hi hq, execPqPeek_of_empty hi hq⟩, fun hi hq => ?_⟩
  obtain ⟨e, he⟩ := sel_isSome hq
  obtain ⟨l, r, hsplit, hrest, hbefore, hafter⟩ := sel_first_least he
  obtain ⟨ys, n, hperm, hstable, hset⟩ := s.setRxq_reorders (l ++ r)
  have hpop := execPqPop_of_sel hi he
  rw [hrest, hset] at hpop
  exact ⟨l, e, r, ys, e.frame.words, n, hsplit, hbefore, hafter, hperm, hstable, rfl, hpop,
    execPqPeek_of_sel hi he⟩

/-- Settles O16: the callout check precedes the size check, and only sizes that pass both are
taken. -/
theorem pqInitResult : Obligations.PqInitResult :=
  fun n k _ => ⟨encode_pqInit n k, fun hc => execPqInit_of_callout hc n k,
    fun hc hbad => execPqInit_of_bad_sizes hc hbad, fun hc hk hn => execPqInit_of_sizes hc hk hn⟩

/-- Settles O19: only the initialisation flag decides whether the length is answered. -/
theorem pqSizeResult : Obligations.PqSizeResult :=
  fun _ => ⟨rfl, fun hi => if_pos hi, fun hi => execPqSize_of_init hi⟩

end Sys2Proof.Machine
end

section
/-! The dispatch table (43_dispatch.md): what REG_INIT, REG_DEFAULT, REG_ADD and REG_LOOKUP answer
(R200 to R202, R204). -/

namespace Sys2Proof.Machine

open Sys2Proof

/-! ## The lookup (R203) -/

/-- A lookup hits where some entry has the message id. -/
theorem findReg_isSome_of_mem (dup : DupLookup) (draw : Nat) {reg : List RegEntry} {m : Half}
    (h : ∃ e ∈ reg, e.msgId = m) : ∃ e, findReg dup draw reg m = some e := by
  obtain ⟨e, hmem, hid⟩ := h
  exact Option.ne_none_iff_exists'.1 fun hnone => findReg_none.1 hnone e hmem hid

/-! ## REG_INIT (R200) -/

theorem execRegInit_of_callout {s : State} (hc : s.blk.engCallout ≠ .none) (c : Half) :
    execRegInit c s = .next (s.doneHost .busy 0 []) :=
  if_pos hc

theorem execRegInit_of_too_large {s : State} (hc : s.blk.engCallout = .none) {c : Half}
    (hbig : c.toNat > s.params.regMaxEntries) :
    execRegInit c s = .next (s.doneHost .invalidArgument 0 []) := by
  rw [execRegInit, if_neg (not_not_intro hc), if_pos hbig]
  rfl

theorem execRegInit_of_fits {s : State} (hc : s.blk.engCallout = .none) {c : Half}
    (hfits : c.toNat ≤ s.params.regMaxEntries) :
    execRegInit c s =
      .next (({ s with blk.regCap := c, blk.reg := [], blk.regDefault := none,
                       blk.regInit := true } : State).doneHost .ok 0 []) := by
  rw [execRegInit, if_neg (not_not_intro hc), if_neg (Nat.not_lt.2 hfits)]

/-! ## What each command does in an initialised table -/

section Initialised

variable {s : State}

theorem execRegDefault_of_init (hi : s.blk.regInit = true) (cb ctx : Word) :
    execRegDefault cb ctx s =
      .next (({ s with blk.regDefault := some { cb := cb, ctx := ctx } } : State).doneHost
        .ok 0 []) := by
  rw [execRegDefault, if_neg (by simp [hi])]

theorem execRegAdd_of_bad_id (hi : s.blk.regInit = true) {m : Half} (hm : m.toNat > 63)
    (cb ctx : Word) : execRegAdd m cb ctx s = .next (s.doneHost .invalidArgument 0 []) := by
  rw [execRegAdd, if_neg (by simp [hi]), if_pos hm]
  rfl

theorem execRegAdd_of_full (hi : s.blk.regInit = true) {m : Half} (hm : m.toNat ≤ 63)
    (hfull : s.blk.reg.length = s.blk.regCap.toNat) (cb ctx : Word) :
    execRegAdd m cb ctx s = .next (s.doneHost .resourceExhausted 0 []) := by
  rw [execRegAdd, if_neg (by simp [hi]), if_neg (Nat.not_lt.2 hm), if_pos hfull]
  rfl

theorem execRegAdd_of_room (hi : s.blk.regInit = true) {m : Half} (hm : m.toNat ≤ 63)
    (hroom : s.blk.reg.length ≠ s.blk.regCap.toNat) (cb ctx : Word) :
    execRegAdd m cb ctx s =
      .next (({ s with blk.reg := s.blk.reg ++ [{ msgId := m, cb := cb, ctx := ctx }] } :
        State).doneHost .ok 0 []) := by
  rw [execRegAdd, if_neg (by simp [hi]), if_neg (Nat.not_lt.2 hm), if_neg hroom]

/-- A miss answers NotFound: the default handler is never looked at (R204). -/
theorem execRegLookup_of_miss (hi : s.blk.regInit = true) {m : Half}
    (hmiss : findReg s.params.dupLookup s.draws s.blk.reg m = none) :
    execRegLookup m s = .next (s.nextDraw.doneHost .notFound 0 []) := by
  rw [execRegLookup, if_neg (by simp [hi]), hmiss]
  rfl

theorem execRegLookup_of_found (hi : s.blk.regInit = true) {m : Half} {e : RegEntry}
    (he : findReg s.params.dupLookup s.draws s.blk.reg m = some e) :
    execRegLookup m s = .next (s.nextDraw.doneHost .ok 0 [e.cb, e.ctx]) := by
  rw [execRegLookup, if_neg (by simp [hi]), he]

end Initialised

/-! ## The obligations -/

/-- Settles O24: by `findReg_none` the lookup misses where no entry has the id; otherwise it answers
the entry that `findReg_split` places in the table; either way one draw is used up. -/
theorem regLookupResult : Obligations.RegLookupResult := by
  refine fun m s => ⟨rfl, fun hi => if_pos hi, fun hi hmiss => ?_, fun hi hhas => ?_⟩
  · exact ⟨s.draws + 1, execRegLookup_of_miss hi (findReg_none.2 hmiss)⟩
  · obtain ⟨e, he⟩ := findReg_isSome_of_mem s.params.dupLookup s.draws hhas
    obtain ⟨l, later, hsplit, hid, hnewest⟩ := findReg_split he
    exact ⟨l, e, later, s.draws + 1, hsplit, hid, hnewest, execRegLookup_of_found hi he⟩

/-- Settles O22: REG_INIT checks the callout and then the capacity; for REG_DEFAULT only the
initialisation flag decides. -/
theorem regInitAndDefaultResult : Obligations.RegInitAndDefaultResult :=
  ⟨fun c _ => ⟨rfl, fun hc => execRegInit_of_callout hc c,
      fun hc hbig => execRegInit_of_too_large hc hbig,
      fun hc hfits => execRegInit_of_fits hc hfits⟩,
    fun cb ctx _ => ⟨rfl, fun hi => if_pos hi, fun hi => execRegDefault_of_init hi cb ctx⟩⟩

/-- Settles O23: the id is checked before the room, and only an entry that passes both is
appended. -/
theorem regAddResult : Obligations.RegAddResult :=
  fun _ cb ctx _ => ⟨rfl, fun hi => if_pos hi, fun hi hm => execRegAdd_of_bad_id hi hm cb ctx,
    fun hi hm hfull => execRegAdd_of_full hi hm hfull cb ctx,
    fun hi hm hroom => execRegAdd_of_room hi hm hroom cb ctx⟩

end Sys2Proof.Machine
end

section
/-! The frame ACK tracker (44_ack.md): the ACK reply (R230, R234), resolution by an Ack frame
(R235), ACK_TICK (R237) and the tick Engine step (R238). -/

namespace Sys2Proof.Machine

open Sys2Proof

/-! ## The ACK reply (R230, R234) -/

theorem critical_eq_true {b : Block} {f : Frame} :
    critical b f = true ↔
      f.ty = 0 ∧ f.msgId.toNat ≤ 63 ∧ b.critMask.getLsbD f.msgId.toNat = true := by
  simp only [critical, Bool.and_eq_true, decide_eq_true_eq, and_assoc]

theorem State.txFull_eq_true {s : State} :
    s.txFull = true ↔ s.blk.txq.length = s.params.txqCapacity :=
  decide_eq_true_iff

theorem State.ackReply_of_not_critical {s : State} {f : Frame} (hc : critical s.blk f = false)
    (st : Byte) : s.ackReply f st = s :=
  if_neg (Bool.eq_false_iff.1 hc)

theorem State.ackReply_of_full {s : State} {f : Frame} (hc : critical s.blk f = true)
    (hfull : s.blk.txq.length = s.params.txqCapacity) (st : Byte) :
    s.ackReply f st = s.mark .ackDrop := by
  rw [State.ackReply, if_pos hc, if_pos (State.txFull_eq_true.2 hfull)]

theorem State.ackReply_of_room {s : State} {f : Frame} (hc : critical s.blk f = true)
    (hroom : s.blk.txq.length ≠ s.params.txqCapacity) (st : Byte) :
    s.ackReply f st = s.txEnqueue (replyFrame s.blk.deviceId f.msgId st) := by
  rw [State.ackReply, if_pos hc, if_neg (mt State.txFull_eq_true.1 hroom)]

/-! ## The oldest request with a message id (R235) -/

/-- The table's 6-bit id is compared with the frame's 16-bit id as a number. -/
theorem setWidth_eq_msgId_iff (a : BitVec 6) (m : Half) :
    a.setWidth 16 = m ↔ a.toNat = m.toNat := by
  rw [← BitVec.toNat_inj, BitVec.toNat_setWidth_of_le (by decide)]

theorem ackIdx_of_unmatched {ack : List AckEntry} {m : Half}
    (h : ∀ e ∈ ack, e.msgId.toNat ≠ m.toNat) : ackIdx ack m = none :=
  List.findIdx?_eq_none_iff.2 fun e he => by simpa [setWidth_eq_msgId_iff] using h e he

theorem ackIdx_of_oldest {l r : List AckEntry} {e : AckEntry} {m : Half}
    (he : e.msgId.toNat = m.toNat) (hl : ∀ x ∈ l, x.msgId.toNat ≠ m.toNat) :
    ackIdx (l ++ e :: r) m = some l.length := by
  have hnone : l.findIdx? (fun e => decide (e.msgId.setWidth 16 = m)) = none :=
    ackIdx_of_unmatched hl
  rw [ackIdx, List.findIdx?_append, hnone, List.findIdx?_cons,
    if_pos (decide_eq_true ((setWidth_eq_msgId_iff _ _).2 he))]
  simp

theorem State.resolve_of_unmatched {s : State} {f : Frame}
    (h : ∀ e ∈ s.blk.ack, e.msgId.toNat ≠ f.msgId.toNat) :
    s.resolve f = s.mark .ackNomatch := by
  rw [State.resolve, ackIdx_of_unmatched h]

theorem State.resolve_of_oldest {s : State} {f : Frame} {l r : List AckEntry} {e : AckEntry}
    (hack : s.blk.ack = l ++ e :: r) (he : e.msgId.toNat = f.msgId.toNat)
    (hl : ∀ x ∈ l, x.msgId.toNat ≠ f.msgId.toNat) :
    s.resolve f =
      ({ s with blk.ack := l ++ r } : State).enterCallout .ackCb
        (calloutAckWords e f.msgId f.sourceId .acked (u8Field f.data 0)) := by
  simp [State.resolve, hack, ackIdx_of_oldest he hl, List.eraseIdx_append_of_length_le]

/-! ## One tick of the pending table (R237) -/

/-- What a tick leaves of one entry: nothing at countdown 1, and a countdown of 0 never runs. -/
def tickEntry (e : AckEntry) : Option AckEntry :=
  if e.countdown = 1 then none
  else if e.countdown = 0 then some e
  else some { e with countdown := e.countdown - 1 }

theorem ticked_eq_filterMap (ack : List AckEntry) : ticked ack = ack.filterMap tickEntry := by
  rw [ticked, ← List.filterMap_eq_map, List.filterMap_filter]
  refine List.filterMap_congr fun e _ => ?_
  simp only [tickEntry, decide_eq_true_eq, ne_eq, ite_not, Function.comp_apply, apply_ite some]

theorem expiring_eq_nil {ack : List AckEntry} :
    expiring ack = [] ↔ ∀ e ∈ ack, e.countdown ≠ 1 := by
  simp [expiring]

theorem execAckTick_of_callout {s : State} (hc : s.blk.engCallout ≠ .none) :
    execAckTick s = .next (s.doneHost .busy 0 []) :=
  if_pos hc

theorem execAckTick_of_uninit {s : State} (hc : s.blk.engCallout = .none)
    (hi : s.blk.init = false) : execAckTick s = .next (s.doneHost .uninitialized 0 []) := by
  rw [execAckTick, if_neg (not_not_intro hc), if_pos hi]
  rfl

section Initialised

variable {s : State}

theorem execAckTick_of_none_expiring (hc : s.blk.engCallout = .none) (hi : s.blk.init = true)
    (hnone : ∀ e ∈ s.blk.ack, e.countdown ≠ 1) :
    execAckTick s =
      .next (({ s with blk.ack := s.blk.ack.filterMap tickEntry } : State).doneHost .ok 0 []) := by
  rw [execAckTick, if_neg (not_not_intro hc), if_neg (by simp [hi]),
    if_pos (expiring_eq_nil.2 hnone), ticked_eq_filterMap]

theorem execAckTick_of_expiring (hc : s.blk.engCallout = .none) (hi : s.blk.init = true)
    (hsome : ∃ e ∈ s.blk.ack, e.countdown = 1) :
    execAckTick s =
      .next { s with blk.ack := s.blk.ack.filterMap tickEntry, blk.engMode := .tick,
                     blk.engCount := 0, blk.engExpired := expiring s.blk.ack } := by
  have hne : expiring s.blk.ack ≠ [] := by simpa [expiring_eq_nil] using hsome
  rw [execAckTick, if_neg (not_not_intro hc), if_neg (by simp [hi]), if_neg hne,
    ticked_eq_filterMap]

end Initialised

/-! ## The tick Engine step (R238) -/

theorem engineStep_of_tick {s : State} (hm : s.blk.engMode = .tick) :
    engineStep s = tickStep s := by
  rw [engineStep, hm]

theorem tickStep_of_nil {s : State} (h : s.blk.engExpired = []) :
    tickStep s =
      ({ s with blk.engMode := .idle, blk.engCount := 0 } : State).doneHost .ok
        s.blk.engCount [] := by
  rw [tickStep, h]

theorem tickStep_of_cons {s : State} {e : AckEntry} {rest : List AckEntry}
    (h : s.blk.engExpired = e :: rest) :
    tickStep s =
      ({ s with blk.engExpired := rest, blk.engCount := s.blk.engCount + 1 } :
        State).enterCallout .ackCb (expiryWords e) := by
  rw [tickStep, h]

/-! ## The obligations -/

/-- Settles O26: only critical frames are answered, and the reply is enqueued, its event by
`State.evRaise_eq`, or marked as dropped. -/
theorem ackReplyForCriticalFrames : Obligations.AckReplyForCriticalFrames := by
  refine ⟨fun _ _ => critical_eq_true, fun s f st => ⟨
    fun hc => State.ackReply_of_not_critical hc st,
    fun hc hfull => State.ackReply_of_full hc hfull st, fun hc hroom => ?_⟩⟩
  rw [State.ackReply_of_room hc hroom, State.txEnqueue, State.evRaise_eq]
  rfl

/-- Settles O27: the index that `ackIdx` finds is that of the oldest matching entry, which leaves
the table in the transition that enters its callout. -/
theorem ackResolvesOldestRequest : Obligations.AckResolvesOldestRequest :=
  fun _ _ => ⟨State.resolve_of_unmatched,
    fun _ _ _ hack he hl => State.resolve_of_oldest hack he hl⟩

/-- Settles O28: the callout is checked before the initialisation, and the entries that expire
decide between the answer and a tick batch. -/
theorem ackTickResult : Obligations.AckTickResult :=
  fun s => ⟨rfl, execAckTick_of_callout, execAckTick_of_uninit,
    fun hc hi => ⟨s.blk.ack.filterMap tickEntry, rfl, execAckTick_of_none_expiring hc hi,
      execAckTick_of_expiring hc hi⟩⟩

/-- Settles O29: in mode TICK the Engine's step is `tickStep`, which looks at what is left of the
batch only. -/
theorem tickStepDeliversExpiry : Obligations.TickStepDeliversExpiry := by
  refine fun s hm _ => ⟨fun h => ?_, fun e rest h => ?_⟩
  · rw [engineStep_of_tick hm, tickStep_of_nil h]
  · rw [engineStep_of_tick hm, tickStep_of_cons h]
    rfl

end Sys2Proof.Machine
end

section
/-! RX/TX processing (45_rxtx.md): what CAN_INIT, TRANSMIT, HANDLER_RETURN and TX_READY_IRQ do and
answer (R260, R261, R263, R281). -/

namespace Sys2Proof.Machine

open Sys2Proof

/-! ## CAN_INIT (R260) -/

theorem encode_canInit (dev rx tx fe : Half) :
    encode (.canInit dev rx tx fe) = [0x50#8 ++ 0#8 ++ dev, tx ++ rx, 0#16 ++ fe] := by
  rw [← halfWord_eq_append]
  rfl

theorem execCanInit_of_callout {s : State} (hc : s.blk.engCallout ≠ .none)
    (dev rx tx fe : Half) : execCanInit dev rx tx fe s = .next (s.doneHost .busy 0 []) :=
  if_pos hc

section NoCallout

variable {s : State} {dev rx tx fe : Half}

theorem execCanInit_of_bad_device (hc : s.blk.engCallout = .none) (hd : dev.toNat > 15) :
    execCanInit dev rx tx fe s = .next (s.doneHost .invalidArgument 0 []) := by
  rw [execCanInit, if_neg (not_not_intro hc), if_pos hd]
  rfl

theorem execCanInit_of_bad_events (hc : s.blk.engCallout = .none) (hd : dev.toNat ≤ 15)
    (hbad : badEventIds rx tx fe = true) :
    execCanInit dev rx tx fe s = .next (s.doneHost .invalidArgument 0 []) := by
  rw [execCanInit, if_neg (not_not_intro hc), if_neg (Nat.not_lt.2 hd), if_pos hbad]
  rfl

theorem execCanInit_of_legal (hc : s.blk.engCallout = .none) (hd : dev.toNat ≤ 15)
    (hids : badEventIds rx tx fe = false) :
    execCanInit dev rx tx fe s =
      .next (({ s with blk.deviceId := dev, blk.rxEventId := rx, blk.txEventId := tx,
                       blk.faultEventId := fe, blk.txq := [], blk.ack := [],
                       blk.fsmState := .idle, blk.txFailCount := 0, blk.init := true } :
        State).doneHost .ok 0 []) := by
  rw [execCanInit, if_neg (not_not_intro hc), if_neg (Nat.not_lt.2 hd),
    if_neg (Bool.eq_false_iff.1 hids)]

end NoCallout

/-! ## TRANSMIT (R261, R265, R231) -/

/-- Opening a request changes the pending-ack table only, and only for a critical frame. -/
theorem State.openAck_eq (s : State) (f : Frame) (cb ctx : Word) :
    s.openAck f cb ctx =
      { s with blk.ack := if critical s.blk f = true
          then s.blk.ack ++ [newAckEntry s.blk f cb ctx] else s.blk.ack } := by
  unfold State.openAck
  split <;> rfl

/-- What an accepted frame changes: the FIFO, the pending-ack table and the event queue. -/
theorem State.openAck_txEnqueue (s : State) (f : Frame) (cb ctx : Word) :
    (s.txEnqueue f).openAck f cb ctx =
      { s with
        blk.txq := s.blk.txq ++ [f],
        blk.ack := if critical s.blk f = true
          then s.blk.ack ++ [newAckEntry s.blk f cb ctx] else s.blk.ack,
        evq := if s.evq.length < s.params.evqCapacity
          then s.evq ++ [{ id := s.blk.txEventId, data := 0 }] else s.evq } := by
  rw [State.openAck_eq, State.txEnqueue, State.evRaise_eq]
  rfl

section Initialised

variable {s : State} {f : Frame}

theorem execTransmit_of_invalid (hi : s.blk.init = true) (hf : validFrame f = false)
    (cb ctx : Word) : execTransmit f cb ctx s = .next (s.doneHost .invalidArgument 0 []) := by
  rw [execTransmit, if_neg (by simp [hi]), if_pos hf]
  rfl

/-- A full pending-ack table refuses a critical frame, and a full FIFO refuses every frame. -/
theorem execTransmit_of_full (hi : s.blk.init = true) (hf : validFrame f = true)
    (hfull : (critical s.blk f = true ∧ s.blk.ack.length = s.params.ackMaxPending) ∨
      s.blk.txq.length = s.params.txqCapacity)
    (cb ctx : Word) : execTransmit f cb ctx s = .next (s.doneHost .resourceExhausted 0 []) := by
  rw [execTransmit, if_neg (by simp [hi]), if_neg (by simp [hf])]
  obtain htable | hfifo := hfull
  · exact if_pos htable
  · rw [if_pos (State.txFull_eq_true.2 hfifo)]
    exact ite_self _

theorem execTransmit_of_room (hi : s.blk.init = true) (hf : validFrame f = true)
    (htable : critical s.blk f = true → s.blk.ack.length ≠ s.params.ackMaxPending)
    (hfifo : s.blk.txq.length ≠ s.params.txqCapacity) (cb ctx : Word) :
    execTransmit f cb ctx s = .next (((s.txEnqueue f).openAck f cb ctx).doneHost .ok 0 []) := by
  rw [execTransmit, if_neg (by simp [hi]), if_neg (by simp [hf]), if_neg (not_and.2 htable),
    if_neg (mt State.txFull_eq_true.1 hfifo)]

end Initialised

/-! ## HANDLER_RETURN (R263, R345) -/

theorem execHandlerReturn_of_no_callout {s : State} (hc : s.blk.engCallout = .none)
    (st : Byte) (r : Half) :
    execHandlerReturn st r s = .next (s.doneHost .noCallout 0 []) := by
  rw [execHandlerReturn, hc]
  rfl

theorem execHandlerReturn_of_handler {s : State} (hc : s.blk.engCallout = .handler)
    (st : Byte) (r : Half) :
    execHandlerReturn st r s = .next (s.leaveCallout.ackReply s.blk.engCur st) := by
  rw [execHandlerReturn, hc]

theorem execHandlerReturn_of_ack_callback {s : State} (hc : s.blk.engCallout = .ackCb)
    (st : Byte) (r : Half) : execHandlerReturn st r s = .next s.leaveCallout := by
  rw [execHandlerReturn, hc]

/-! ## TX_READY_IRQ (R281) -/

theorem execTxReadyIrq_of_init {s : State} (hi : s.blk.init = true) :
    execTxReadyIrq s = .next ((s.evRaise s.blk.txEventId 0).doneIsr .ok 0) :=
  if_neg (by simp [hi])

/-! ## The obligations -/

/-- Settles O32: the frame's validity is checked before both kinds of room, and an accepted frame
has the effect of `State.openAck_txEnqueue`. -/
theorem transmitResult : Obligations.TransmitResult := by
  refine fun f cb ctx s => ⟨rfl, fun hi => if_pos hi,
    fun hi hbad => execTransmit_of_invalid hi (validFrame_eq_false.2 hbad) cb ctx,
    fun hi hf hfull => execTransmit_of_full hi hf hfull cb ctx, fun hi hf htable hfifo => ?_⟩
  have haccepted := execTransmit_of_room hi hf htable hfifo cb ctx
  rwa [State.openAck_txEnqueue] at haccepted

/-- Settles O31: the callout is checked first, then the device id, then the event ids, which are the
ones `badEventIds` refuses. -/
theorem canInitResult : Obligations.CanInitResult := by
  refine fun dev rx tx fe s => ⟨encode_canInit dev rx tx fe,
    fun hc => execCanInit_of_callout hc dev rx tx fe, fun hc hbad => ?_,
    fun hc hd hrx htx hfe hrt hrf htf => ?_⟩
  · by_cases hd : dev.toNat > 15
    · exact execCanInit_of_bad_device hc hd
    · exact execCanInit_of_bad_events hc (Nat.le_of_not_lt hd)
        (badEventIds_eq_true.2 (hbad.resolve_left hd))
  · have hids : badEventIds rx tx fe = false := by
      simp only [Bool.eq_false_iff, ne_eq, badEventIds_eq_true, not_or]
      exact ⟨hrx, htx, hfe, hrt, hrf, htf⟩
    exact execCanInit_of_legal hc hd hids

/-- Settles O35: the kind of the outstanding callout decides, and only a handler's return runs the
ACK-reply step. -/
theorem handlerReturnResult : Obligations.HandlerReturnResult :=
  fun st r _ => ⟨rfl, fun hc => execHandlerReturn_of_no_callout hc st r,
    fun hc => execHandlerReturn_of_handler hc st r,
    fun hc => execHandlerReturn_of_ack_callback hc st r⟩

/-- Settles O40: gating aside, the command is one raise, whose effect is that of
`State.evRaise_eq`. -/
theorem txReadyIrqResult : Obligations.TxReadyIrqResult := by
  refine fun s => ⟨rfl, fun hi => if_pos hi, fun hi => ?_⟩
  have hraised := execTxReadyIrq_of_init hi
  rwa [State.evRaise_eq] at hraised

end Sys2Proof.Machine
end

section
/-! CSR_WRITE (46_csr.md R320, R322, R323): its answer by the kind of the CSR named, and what each
written field becomes. -/

namespace Sys2Proof.Machine

open Sys2Proof

/-! ## The kinds of CSR numbers (R320) -/

theorem csrOfNum_eq_none {n : Byte} (hn : n.toNat > 0x0E) : csrOfNum n = none := by
  unfold csrOfNum
  split
  case h_16 => rfl
  all_goals omega

/-- The numbers of the read-only CSRs: no value can be written there (R323). -/
theorem csrOfNum_readOnly {n : Byte}
    (hn : n.toNat ∈ [0x02, 0x03, 0x04, 0x09, 0x0A, 0x0B, 0x0C, 0x0D, 0x0E]) :
    ∃ c, csrOfNum n = some c ∧ ∀ b v, csrWritten b v c = none := by
  simp only [List.mem_cons, List.not_mem_nil, or_false] at hn
  unfold csrOfNum
  obtain h | h | h | h | h | h | h | h | h := hn <;> rw [h] <;> exact ⟨_, rfl, fun _ _ => rfl⟩

/-! ## The answers (R322) -/

section Answers

variable {n : Byte} {c : Csr} {v : Word} {s : State}

theorem exec_csrWrite_of_unassigned (hn : csrOfNum n = none) :
    exec (.csrWrite n v) s = .next (s.doneHost .illegalCommand 0 []) := by
  simp only [exec, execCsrWrite, hn]
  rfl

theorem exec_csrWrite_of_readOnly (hn : csrOfNum n = some c) (hc : csrWritten s.blk v c = none) :
    exec (.csrWrite n v) s = .next (s.doneHost .invalidArgument 0 []) := by
  simp only [exec, execCsrWrite, hn, hc]
  rfl

theorem exec_csrWrite_of_writable {b : Block} (hn : csrOfNum n = some c)
    (hc : csrWritten s.blk v c = some b) :
    exec (.csrWrite n v) s = .next (({ s with blk := b } : State).doneHost .ok 0 []) := by
  simp only [exec, execCsrWrite, hn, hc]
  rfl

end Answers

/-! ## The written fields (R322) -/

theorem clearStatus_getLsbD (st : BitVec 6) (v : Word) {i : Nat} (hi : i < 6) :
    (clearStatus st v).getLsbD i = (st.getLsbD i && !v.getLsbD i) := by
  simp [clearStatus, hi]

/-- A write of the low half of a 64-bit mask. -/
theorem replaceLow_getLsbD (m : BitVec 64) (v : Word) (i : Nat) :
    BitVec.getLsbD (w := 64) (m.extractLsb' 32 32 ++ v) i =
      if i < 32 then v.getLsbD i else m.getLsbD i := by
  rw [append_word_getLsbD]
  split
  · rfl
  next hi =>
    have hindex : 32 + (i - 32) = i := by omega
    by_cases hbound : i - 32 < 32
    · simp [hindex, hbound]
    · simp [hindex, BitVec.getLsbD_of_ge m i (by omega)]

/-- A write of the high half of a 64-bit mask. -/
theorem replaceHigh_getLsbD (m : BitVec 64) (v : Word) (i : Nat) :
    BitVec.getLsbD (w := 64) (v ++ m.extractLsb' 0 32) i =
      if i < 32 then m.getLsbD i else v.getLsbD (i - 32) := by
  rw [append_word_getLsbD]
  split
  next hi => simp [hi]
  · rfl

theorem loHalf_eq_ofNat (v : Word) : loHalf v = BitVec.ofNat 16 v.toNat := by
  rw [BitVec.ofNat_toNat, BitVec.setWidth_eq_extractLsb' (by decide), loHalf]

/-- Settles O42: the kind of the CSR named decides among the three answers, and the lemmas on bits
say what a written STATUS or CRIT_MASK half becomes. -/
theorem csrWriteResult : Obligations.CsrWriteResult := by
  intro v s
  refine ⟨fun _ => rfl, fun n hn => exec_csrWrite_of_unassigned (csrOfNum_eq_none hn),
    fun n hn => ?readOnly, ?ctrl,
    ⟨_, fun _ hi => clearStatus_getLsbD s.blk.status v hi, ?status⟩,
    ⟨_, replaceLow_getLsbD s.blk.critMask v, ?critMaskLo⟩,
    ⟨_, replaceHigh_getLsbD s.blk.critMask v, ?critMaskHi⟩, ?ackTimeout, ?txRetryLimit⟩
  case readOnly =>
    obtain ⟨c, hassigned, hreadOnly⟩ := csrOfNum_readOnly hn
    exact exec_csrWrite_of_readOnly hassigned (hreadOnly s.blk v)
  case ctrl => exact exec_csrWrite_of_writable (c := .ctrl) rfl rfl
  case status => exact exec_csrWrite_of_writable (c := .status) rfl rfl
  case critMaskLo => exact exec_csrWrite_of_writable (c := .critMaskLo) rfl rfl
  case critMaskHi => exact exec_csrWrite_of_writable (c := .critMaskHi) rfl rfl
  case ackTimeout =>
    rw [← loHalf_eq_ofNat]
    exact exec_csrWrite_of_writable (c := .ackTimeout) rfl rfl
  case txRetryLimit =>
    rw [← loHalf_eq_ofNat]
    exact exec_csrWrite_of_writable (c := .txRetryLimit) rfl rfl

end Sys2Proof.Machine
end

section
/-! The events the block raises (60_exceptions.md R351): only the RX event and the TX event, and
only once CAN_INIT has given them ids that differ from the fault event's (R260). -/

namespace Sys2Proof.Machine

open Sys2Proof

/-- On the way from s to t an initialised block has raised its RX event, its TX event with data 0,
or nothing. -/
def RaisesOwnEvents (s t : State) : Prop :=
  ∀ e ∈ t.evq, e ∈ s.evq ∨
    (s.blk.init = true ∧ (e.id = s.blk.rxEventId ∨ (e.id = s.blk.txEventId ∧ e.data = 0)))

section Raises

variable {s t u : State}

/-! ## One raise, or none -/

theorem RaisesOwnEvents.of_evq_eq (h : t.evq = s.evq) : RaisesOwnEvents s t :=
  fun _ he => .inl (h ▸ he)

theorem RaisesOwnEvents.evRaise (h : u.evq = s.evq) (hi : s.blk.init = true) {id d : Half}
    (hid : id = s.blk.rxEventId ∨ (id = s.blk.txEventId ∧ d = 0)) :
    RaisesOwnEvents s (u.evRaise id d) := by
  intro e he
  obtain ⟨-, hr⟩ | ⟨-, hr⟩ := u.evRaise_cases id d <;> rw [hr] at he
  · obtain hold | hnew := List.mem_append.1 he
    · exact .inl (h ▸ hold)
    · rw [List.mem_singleton.1 hnew]
      exact .inr ⟨hi, hid⟩
  · exact .inl (h ▸ he)

/-! ## The shared operations, in an initialised block -/

theorem RaisesOwnEvents.txEnqueue (hi : s.blk.init = true) (f : Frame) :
    RaisesOwnEvents s (s.txEnqueue f) :=
  .evRaise (u := { s with blk.txq := s.blk.txq ++ [f] }) rfl hi (.inr ⟨rfl, rfl⟩)

theorem RaisesOwnEvents.ackReply (hi : s.blk.init = true) (f : Frame) (st : Byte) :
    RaisesOwnEvents s (s.ackReply f st) := by
  obtain ⟨-, e⟩ | ⟨-, -, e⟩ | ⟨-, -, e⟩ := s.ackReply_cases f st <;> rw [e]
  · exact .of_evq_eq rfl
  · exact .of_evq_eq rfl
  · exact .txEnqueue hi _

theorem RaisesOwnEvents.txProcess (hi : s.blk.init = true) : RaisesOwnEvents s s.txProcess := by
  obtain ⟨-, e⟩ | ⟨f, rest, -, ⟨-, e⟩ | ⟨-, e⟩⟩ := s.txProcess_cases <;> rw [e]
  · exact .of_evq_eq rfl
  · exact .of_evq_eq rfl
  · obtain ⟨-, e⟩ | ⟨-, -, e⟩ := s.useAnswer.txRefused_cases <;> rw [e]
    · exact .evRaise (u := { s.useAnswer with
        blk.txFailCount := satIncr s.blk.txFailCount }) rfl hi (.inr ⟨rfl, rfl⟩)
    · exact .of_evq_eq rfl

/-! ## Engine steps (R270) -/

theorem resolve_evq (s : State) (f : Frame) : (s.resolve f).evq = s.evq := by
  obtain ⟨-, e⟩ | ⟨l, x, r, -, -, -, e⟩ := s.resolve_cases f <;> rw [e] <;> rfl

theorem RaisesOwnEvents.dispatch (hi : s.blk.init = true) (f : Frame) :
    RaisesOwnEvents s (s.dispatch f) := by
  obtain ⟨x, -, e⟩ | ⟨-, e⟩ := s.dispatch_cases f <;> rw [e]
  · exact .of_evq_eq rfl
  · exact .ackReply (s := s.nextDraw) hi f 0x00

theorem RaisesOwnEvents.rxFrame (hi : s.blk.init = true) (f : Frame) :
    RaisesOwnEvents s (s.rxFrame f) := by
  unfold State.rxFrame
  split_ifs
  · exact .of_evq_eq (resolve_evq s f)
  · exact .dispatch hi f
  · exact .of_evq_eq rfl

theorem RaisesOwnEvents.rxStep (hi : s.blk.init = true) : RaisesOwnEvents s (rxStep s) := by
  obtain ⟨-, e⟩ | ⟨-, -, e⟩ | ⟨q, -, -, e⟩ := rxStep_cases s <;> rw [e]
  · exact .of_evq_eq rfl
  · exact .of_evq_eq rfl
  · exact .rxFrame (s := { s.setRxq (withoutSel s.blk.rxq) with
      blk.engRem := s.blk.engRem - 1 }) hi q.frame

theorem tickStep_evq (s : State) : (tickStep s).evq = s.evq := by
  unfold tickStep
  split <;> rfl

theorem RaisesOwnEvents.engineStep (h : Inv s) : RaisesOwnEvents s (engineStep s) := by
  unfold Machine.engineStep
  split
  · exact .of_evq_eq rfl
  next hm => exact .rxStep (h.batchInit (by simp [hm]))
  · exact .of_evq_eq (tickStep_evq s)

/-! ## Commands -/

/-- The commands named are the ones that can raise an event; the case split is over the others. -/
theorem exec_evq_eq {i : Instr}
    (hi : i.opcode ∉ [.transmit, .processEvent, .handlerReturn, .rxIrq, .txReadyIrq])
    (ht : exec i s = .next t) : t.evq = s.evq := by
  cases i
  case transmit | processEvent | handlerReturn | rxIrq | txReadyIrq => simp [Instr.opcode] at hi
  all_goals
    simp only [exec, execIdEncode, execIdDecode, execPackU8, execPackU16, execPackU32,
      execPackU64, execPqInit, execPqPush, execPqPop, execPqPeek, execPqSize, execRegInit,
      execRegDefault, execRegAdd, execRegLookup, execAckTick, execCanInit, execCsrRead,
      execCsrWrite] at ht
    (repeat' split at ht) <;> cases ht <;> rfl

theorem execTransmit_raises {f : Frame} {cb ctx : Word} (ht : execTransmit f cb ctx s = .next t) :
    RaisesOwnEvents s t := by
  unfold execTransmit at ht
  split_ifs at ht with hi <;> cases ht
  case neg =>
    rw [State.openAck_eq]
    exact .txEnqueue (by simpa using hi) f
  all_goals exact .of_evq_eq rfl

theorem execProcessEvent_raises {e d : Half} (ht : execProcessEvent e d s = .next t) :
    RaisesOwnEvents s t := by
  unfold execProcessEvent at ht
  split_ifs at ht with _ hi <;> cases ht
  · exact .of_evq_eq rfl
  · exact .of_evq_eq rfl
  · exact .of_evq_eq rfl
  · exact .txProcess (s := { s with blk.fsmState := .handlingTx }) (by simpa using hi)
  · exact .of_evq_eq rfl

/-- A callout is outstanding in an initialised block only, so the reply's event has its id. -/
theorem execHandlerReturn_raises (h : Inv s) (st : Byte) (r : Half)
    (ht : execHandlerReturn st r s = .next t) : RaisesOwnEvents s t := by
  unfold execHandlerReturn at ht
  split at ht <;> cases ht
  · exact .of_evq_eq rfl
  next hc =>
    have hi : s.blk.init = true := h.batchInit (h.calloutInBatch (by simp [hc]))
    exact .ackReply (s := s.leaveCallout) hi _ _
  · exact .of_evq_eq rfl

theorem execRxIrq_raises {rs : List RxRecord} (ht : execRxIrq rs s = .next t) :
    RaisesOwnEvents s t := by
  unfold execRxIrq at ht
  obtain ⟨xs, st, d, delivered, -⟩ := rxDeliver_fold_frame rs s 0
  simp only [delivered] at ht
  split_ifs at ht with _ hi <;> cases ht
  · exact .of_evq_eq rfl
  · exact .of_evq_eq rfl
  · exact .evRaise rfl (by simpa using (not_or.1 hi).1) (.inl rfl)
  · exact .of_evq_eq rfl

theorem execTxReadyIrq_raises (ht : execTxReadyIrq s = .next t) : RaisesOwnEvents s t := by
  unfold execTxReadyIrq at ht
  split_ifs at ht with hi <;> cases ht
  · exact .of_evq_eq rfl
  · exact .evRaise rfl (by simpa using hi) (.inr ⟨rfl, rfl⟩)

theorem exec_raises (h : Inv s) {i : Instr} (ht : exec i s = .next t) : RaisesOwnEvents s t := by
  cases i
  case transmit => exact execTransmit_raises ht
  case processEvent => exact execProcessEvent_raises ht
  case handlerReturn st r => exact execHandlerReturn_raises h st r ht
  case rxIrq => exact execRxIrq_raises ht
  case txReadyIrq => exact execTxReadyIrq_raises ht
  all_goals exact .of_evq_eq (exec_evq_eq (by simp [Instr.opcode]) ht)

theorem runCommand_raises (h : Inv s) {p : Port} {ws : List Word}
    (ht : runCommand p ws s = .next t) : RaisesOwnEvents s t := by
  unfold runCommand at ht
  split at ht
  · exact exec_raises h ht
  · cases ht
    cases p <;> exact .of_evq_eq rfl

/-! ## Turns and steps -/

theorem takeTurn_raises (h : Inv s) {v : Turn} (hv : ∀ e, v ≠ .collaborator e)
    (ht : takeTurn v s = .next t) : RaisesOwnEvents s t := by
  cases v with
  | host ws => exact runCommand_raises h ht
  | isr ws => exact runCommand_raises h ht
  | engine =>
    simp only [takeTurn] at ht
    split_ifs at ht <;> cases ht
    · exact .engineStep h
    · exact .of_evq_eq rfl
  | process =>
    cases ht
    exact fun _ he => .inl (List.mem_of_mem_tail he)
  | forward =>
    simp only [takeTurn] at ht
    split at ht
    · exact runCommand_raises (s := { s with taken := none }) (h.of_eq rfl rfl rfl rfl) ht
    · cases ht
      exact .of_evq_eq rfl
  | collaborator e => exact absurd rfl (hv e)
  | reset =>
    cases ht
    exact .of_evq_eq rfl

theorem step_raises (h : Inv s) (hdue : ∀ e rest, s.dueTurns ≠ .collaborator e :: rest)
    (ht : step s = .next t) : RaisesOwnEvents s t := by
  unfold step nextTransition at ht
  split at ht
  · split_ifs at ht <;> cases ht
    · exact .engineStep h
    · exact .of_evq_eq rfl
  next v rest hv =>
    split_ifs at ht
    · cases ht
      exact .engineStep h
    · exact takeTurn_raises (s := { s with turns := rest }) (h.of_eq rfl rfl rfl rfl)
        (fun e hve => hdue e rest (hve ▸ hv)) ht

/-! ## The fault event -/

/-- CAN_INIT accepts no fault event that is the RX or the TX event (R260). -/
theorem Inv.faultEventId_ne (h : Inv s) (hi : s.blk.init = true) :
    s.blk.faultEventId ≠ s.blk.rxEventId ∧ s.blk.faultEventId ≠ s.blk.txEventId := by
  obtain ⟨-, hids⟩ := h.identity hi
  simp only [Bool.eq_false_iff, ne_eq, badEventIds_eq_true, not_or] at hids
  obtain ⟨-, -, -, -, hrx, htx⟩ := hids
  exact ⟨Ne.symm hrx, Ne.symm htx⟩

theorem execCanInit_faultEventId {dev rx tx fe : Half} (hi : s.blk.init = false)
    (ht : execCanInit dev rx tx fe s = .next t) (hinit : t.blk.init = true) :
    t.blk.faultEventId = fe := by
  unfold execCanInit at ht
  split_ifs at ht <;> cases ht
  case neg => rfl
  all_goals exact absurd hinit (Bool.eq_false_iff.1 hi)

theorem execProcessEvent_of_unhandled (hc : s.blk.engCallout = .none) (hi : s.blk.init = true)
    {e : Half} (hrx : e ≠ s.blk.rxEventId) (htx : e ≠ s.blk.txEventId) (d : Half) :
    execProcessEvent e d s = .next (s.doneHost .ok 0 []) := by
  rw [execProcessEvent, if_neg (not_not_intro hc), if_neg (by simp [hi]), if_neg hrx, if_neg htx]

end Raises

/-- Settles O55: by `step_raises` a step adds only the block's own two events, whose ids CAN_INIT
keeps apart from the fault event's, so that PROCESS_EVENT of it takes neither event's branch. -/
theorem faultEventNeverRaised : Obligations.FaultEventNeverRaised := by
  refine ⟨fun s t h ht hdue e he => ?_,
    fun s t dev rx tx fe hi ht hinit => execCanInit_faultEventId hi ht hinit,
    fun s d h hi hc => ?_⟩
  · refine (step_raises h hdue ht e he).imp_right fun ⟨hi, hown⟩ => ⟨fun hfault => ?_, hown⟩
    obtain ⟨hrx, htx⟩ := h.faultEventId_ne hi
    obtain hid | ⟨hid, -⟩ := hown
    · exact hrx (hfault ▸ hid)
    · exact htx (hfault ▸ hid)
  · obtain ⟨hrx, htx⟩ := h.faultEventId_ne hi
    exact execProcessEvent_of_unhandled hc hi hrx htx d

end Sys2Proof.Machine
end

section
/-! The reset input (70_reset_and_hazards.md R380, R381): its turn replaces the block's state and
nothing else, and what the commands that read that state answer from it. -/

namespace Sys2Proof.Machine

open Sys2Proof

/-! ## The reset turn -/

/-- The reset input is no turn of the Host agent, so it waits for no batch (R381). -/
theorem step_of_due_reset {s : State} {rest : List Turn} (h : s.dueTurns = .reset :: rest) :
    step s = .next { s with turns := rest, blk := State.reset.blk } := by
  rw [step, nextTransition, h]
  rfl

/-! ## CSR_READ (R320, R321) -/

/-- The number of a CSR (R320). -/
def Csr.number : Csr → Byte
  | .ctrl => 0x00
  | .status => 0x01
  | .deviceId => 0x02
  | .eventIds => 0x03
  | .faultEventId => 0x04
  | .critMaskLo => 0x05
  | .critMaskHi => 0x06
  | .ackTimeout => 0x07
  | .txRetryLimit => 0x08
  | .txFailCount => 0x09
  | .fsmState => 0x0A
  | .rxqInfo => 0x0B
  | .txqInfo => 0x0C
  | .regInfo => 0x0D
  | .ackInfo => 0x0E

/-- The numbers up to 0x0E are the assigned ones, each that of the CSR it names. -/
theorem csrOfNum_assigned {n : Byte} (hn : n.toNat ≤ 0x0E) :
    ∃ c : Csr, csrOfNum n = some c ∧ c.number = n := by
  unfold csrOfNum
  split
  case h_16 => grind
  all_goals exact ⟨_, rfl, BitVec.eq_of_toNat_eq (Eq.symm ‹n.toNat = _›)⟩

theorem exec_csrRead_of_assigned {n : Byte} {c : Csr} (hn : csrOfNum n = some c) (s : State) :
    exec (.csrRead n) s = .next (s.doneHost .ok 0 [csrValue s c]) := by
  simp only [exec, execCsrRead, hn]

/-- The occupancy CSR of an empty store shows its capacity only. -/
theorem infoValue_empty (cap : Nat) : infoValue cap 0 = BitVec.ofNat 32 cap <<< 16 := by
  apply BitVec.eq_of_toNat_eq
  rw [infoValue, append_toNat, BitVec.toNat_shiftLeft, Nat.shiftLeft_eq]
  simp only [BitVec.toNat_ofNat]
  omega

/-- The parameters show in two CSRs; the others read as fixed values. -/
theorem csrValue_of_reset {s : State} (hs : s.blk = State.reset.blk) (c : Csr) :
    csrValue s c =
      if c.number = 0x02 ∨ c.number = 0x04 then (0x0000FFFF : Word)
      else if c.number = 0x03 then 0xFFFFFFFF
      else if c.number = 0x0C then BitVec.ofNat 32 s.params.txqCapacity <<< 16
      else if c.number = 0x0E then BitVec.ofNat 32 s.params.ackMaxPending <<< 16
      else 0 := by
  cases c <;> simp only [csrValue, hs]
  case txqInfo => exact infoValue_empty s.params.txqCapacity
  case ackInfo => exact infoValue_empty s.params.ackMaxPending
  all_goals rfl

/-! ## HANDLER_RETURN and PROCESS_EVENT (R342, R345) -/

theorem execProcessEvent_of_uninit {s : State} (hc : s.blk.engCallout = .none)
    (hi : s.blk.init = false) (e d : Half) :
    execProcessEvent e d s = .next (s.doneHost .uninitialized 0 []) := by
  rw [execProcessEvent, if_neg (not_not_intro hc), if_pos hi]
  rfl

theorem exec_handlerReturn_of_reset {s : State} (hs : s.blk = State.reset.blk) (st : Byte)
    (r : Half) : exec (.handlerReturn st r) s = .next (s.doneHost .noCallout 0 []) :=
  have noCallout : s.blk.engCallout = .none := hs ▸ rfl
  execHandlerReturn_of_no_callout noCallout st r

theorem exec_processEvent_of_reset {s : State} (hs : s.blk = State.reset.blk) (e d : Half) :
    exec (.processEvent e d) s = .next (s.doneHost .uninitialized 0 []) :=
  have noCallout : s.blk.engCallout = .none := hs ▸ rfl
  have uninit : s.blk.init = false := hs ▸ rfl
  execProcessEvent_of_uninit noCallout uninit e d

/-! ## The obligations -/

/-- Settles O45: the reset block is R380's table, the reset turn puts it there, and every number up
to 0x0E is that of a CSR, whose value then is `csrValue_of_reset`'s. -/
theorem resetValues : Obligations.ResetValues := by
  refine ⟨⟨zeroFrame, rfl⟩, fun _ _ => step_of_due_reset, fun s n hs hn => ?_⟩
  obtain ⟨c, hc, rfl⟩ := csrOfNum_assigned hn
  rw [exec_csrRead_of_assigned hc, csrValue_of_reset hs]

/-- Settles O46: whatever the state was before, the block that `step_of_due_reset` puts in place
runs no batch, and so owes the host nothing, has no callout out and is not initialised. -/
theorem resetDiscardsWhatIsInFlight : Obligations.ResetDiscardsWhatIsInFlight := fun _ _ h =>
  ⟨_, step_of_due_reset h, rfl, rfl, exec_handlerReturn_of_reset rfl,
    exec_processEvent_of_reset rfl⟩

end Sys2Proof.Machine
end

section
/-! Decode and encode are inverse (30_encoding.md R103 to R107), and what decodes is exactly what
fits a row of the opcode table. -/

namespace Sys2Proof.Machine

open Sys2Proof

/-! ## Decode undoes encode -/

/-- A header with its reserved fields 0 leads to its opcode's operand words. -/
theorem decode_header {op : Opcode} {aux : Byte} {imm : Half} {ops : List Word} {i : Instr}
    (haux : op.usesAux = false → aux = 0) (himm : op.usesImm = false → imm = 0)
    (hlen : ops.length = op.operandWords aux) (hops : decodeOperands op aux imm ops = .ok i) :
    decode op.port (header op aux imm :: ops) = .ok i := by
  refine decode_cons_eq_ok_iff.2 ⟨op, ?_, rfl, ?_⟩
  · rw [hdrOpc_header, Opcode.ofByte_byte]
  · rw [hdrAux_header, hdrImm_header]
    exact ⟨haux, himm, hlen, hops⟩

theorem decode_encode_rxIrq {rs : List RxRecord} (h : rs.length ≤ 255) :
    decode .isr (encode (.rxIrq rs)) = .ok (.rxIrq rs) := by
  refine decode_header (op := .rxIrq) nofun (fun _ => rfl) ?_ ?_
  · simp only [records_length, Opcode.operandWords, BitVec.toNat_ofNat]
    omega
  · simp only [decodeOperands, recordOperands_words]
    rfl

/-- The split is over RX_IRQ and the other commands, whose word count is fixed. -/
theorem decode_encode {i : Instr} (h : i.wf = true) : decode i.port (encode i) = .ok i := by
  cases i
  case rxIrq rs => exact decode_encode_rxIrq (by simpa [Instr.wf] using h)
  all_goals
    refine decode_header (by simp [Instr.opcode, Opcode.usesAux])
      (by simp [Instr.opcode, Opcode.usesImm]) rfl ?_
    simp [Instr.opcode, decodeOperands, Frame.words, data_append_words, bind, Except.bind]

/-- Settles O1: each field and each operand form is read back from the words it was written to. -/
theorem decodeInvertsEncode : Obligations.DecodeInvertsEncode := fun _ => decode_encode

/-! ## Encode undoes decode -/

/-- An operand form that is read before the rest of the operands. -/
theorem bind_eq_ok {α β : Type} {x : Except Reject α} {f : α → Except Reject β} {b : β} :
    x >>= f = .ok b ↔ ∃ a, x = .ok a ∧ f a = .ok b := by
  cases x <;> simp [bind, Except.bind]

theorem words_of_decodeOperands_rxIrq {aux : Byte} {imm : Half} {ws : List Word} {i : Instr}
    (h : decodeOperands .rxIrq aux imm ws = .ok i) (hlen : ws.length = 3 * aux.toNat)
    (himm : imm = 0) : encode i = header .rxIrq aux imm :: ws ∧ i.wf = true := by
  obtain ⟨rs, hrs, rfl⟩ := recordOperands_of_decodeOperands h
  have hws := words_of_recordOperands hrs
  have hcount : rs.length = aux.toNat := by
    rw [← hws, records_length] at hlen
    omega
  have hlt := aux.isLt
  refine ⟨?_, decide_eq_true (by omega)⟩
  rw [encode, hws, hcount, BitVec.ofNat_toNat, BitVec.setWidth_eq, himm]

theorem byteOperand_eq_ok {w : Word} {b : Byte} : byteOperand w = .ok b ↔ w = byteWord b :=
  ⟨fun h => (byteWord_of_byteOperand h).symm, fun h => h ▸ byteOperand_byteWord b⟩

theorem halfOperand_eq_ok {w : Word} {x : Half} : halfOperand w = .ok x ↔ w = halfWord x :=
  ⟨fun h => (halfWord_of_halfOperand h).symm, fun h => h ▸ halfOperand_halfWord x⟩

theorem append_words_low (hi lo : Word) : BitVec.extractLsb' (n := 64) 0 32 (hi ++ lo) = lo :=
  BitVec.extractLsb'_append_eq_right

theorem append_words_high (hi lo : Word) : BitVec.extractLsb' (n := 64) 32 32 (hi ++ lo) = hi :=
  BitVec.extractLsb'_append_eq_left

theorem halves_append (w : Word) : hiHalf w ++ loHalf w = w := idWord_halves w

/-- The operand words that an opcode's command was read from are those of its encoding: the case
split is over RX_IRQ, the rows without operand words, those whose words are read as they are, and
those with operand forms, a frame among them or not. -/
theorem encode_of_decodeOperands {op : Opcode} {aux : Byte} {imm : Half} {ws : List Word}
    {i : Instr} (haux : op.usesAux = false → aux = 0) (himm : op.usesImm = false → imm = 0)
    (hlen : ws.length = op.operandWords aux) (h : decodeOperands op aux imm ws = .ok i) :
    encode i = header op aux imm :: ws ∧ i.wf = true := by
  cases op
  case rxIrq => exact words_of_decodeOperands_rxIrq h hlen (himm rfl)
  case idDecode | pqPop | pqPeek | pqSize | regInit | regLookup | ackTick | handlerReturn | csrRead
      | txReadyIrq =>
    cases h
    simp_all [encode, Opcode.usesAux, Opcode.usesImm, Opcode.operandWords, Instr.wf]
  case idEncode | packU32 | packU64 | regDefault | regAdd | csrWrite =>
    simp only [decodeOperands] at h
    split at h <;> cases h
    simp_all [encode, Opcode.usesAux, Opcode.usesImm, idWord_halves, Instr.wf,
      append_words_low, append_words_high]
  case packU8 =>
    simp only [decodeOperands] at h
    split at h
    · simp only [bind_eq_ok, byteOperand_eq_ok] at h
      obtain ⟨_, rfl, _, rfl, _, rfl, _, rfl, _, rfl, _, rfl, _, rfl, _, rfl, ⟨⟩⟩ := h
      simp [encode, himm rfl, idWord_halves, Instr.wf]
    · cases h
  case packU16 =>
    simp only [decodeOperands] at h
    split at h
    · simp only [bind_eq_ok, halfOperand_eq_ok] at h
      obtain ⟨_, rfl, _, rfl, _, rfl, _, rfl, ⟨⟩⟩ := h
      simp [encode, himm rfl, idWord_halves, Instr.wf]
    · cases h
  case pqInit | canInit | processEvent =>
    simp only [decodeOperands] at h
    split at h
    · obtain ⟨x, hx, hi⟩ := bind_eq_ok.1 h
      cases hi
      simp [encode, haux rfl, halfOperand_eq_ok.1 hx, halves_append, Instr.wf]
    · cases h
  case pqPush | transmit =>
    simp only [decodeOperands] at h
    split at h
    · obtain ⟨f, hf, hi⟩ := bind_eq_ok.1 h
      cases hi
      simp_all [encode, words_of_frameOperand hf, Opcode.usesAux, Opcode.usesImm, Instr.wf]
    · cases h

theorem encode_of_decode {p : Port} {ws : List Word} {i : Instr} (h : decode p ws = .ok i) :
    encode i = ws ∧ i.port = p ∧ i.wf = true := by
  cases ws with
  | nil => cases h
  | cons hdr ops =>
    obtain ⟨op, hop, hport, haux, himm, hlen, hops⟩ := decode_cons_eq_ok_iff.1 h
    obtain ⟨hwords, hwf⟩ := encode_of_decodeOperands haux himm hlen hops
    obtain ⟨rfl, -⟩ := decodeOperands_row hops hlen
    exact ⟨hwords.trans (by rw [header_fields hop]), hport, hwf⟩

/-- Settles O2: each operand form that is read assembles to the words it was read from, and the
reserved header fields that decode has checked are those the encoder writes 0. -/
theorem encodeInvertsDecode : Obligations.EncodeInvertsDecode := fun _ _ _ => encode_of_decode

/-! ## The opcode table (R103, R104, R106) -/

/-- A header is its three fields put together. -/
theorem header_of_fields (h : Word) : hdrOpc h ++ hdrAux h ++ hdrImm h = h := by
  rw [hdrOpc, hdrAux, hdrImm, BitVec.extractLsb'_append_extractLsb'_eq_extractLsb' (by rfl),
    BitVec.extractLsb'_append_extractLsb'_eq_extractLsb' (by rfl), BitVec.extractLsb'_eq_self]

theorem append_eq_append_iff {m n : Nat} {a c : BitVec m} {b d : BitVec n} :
    a ++ b = c ++ d ↔ a = c ∧ b = d := by
  refine ⟨fun h => ⟨?_, ?_⟩, fun ⟨hhigh, hlow⟩ => hhigh ▸ hlow ▸ rfl⟩
  · rw [← BitVec.extractLsb'_append_eq_left (a := a) (b := b), h,
      BitVec.extractLsb'_append_eq_left]
  · rw [← BitVec.extractLsb'_append_eq_right (a := a) (b := b), h,
      BitVec.extractLsb'_append_eq_right]

/-- What a header that fits an opcode's row says: the opcode, and no reserved field (R104). -/
theorem fields_of_fitsRow {op : Opcode} {h : Word} (hfit : fitsRow op h) :
    Opcode.ofByte (hdrOpc h) = some op ∧ (op.usesAux = false → hdrAux h = 0) ∧
      (op.usesImm = false → hdrImm h = 0) := by
  rw [fitsRow, tableRow_match, tableRow_mask, header, ← header_of_fields h, BitVec.and_append,
    BitVec.and_append, append_eq_append_iff, append_eq_append_iff] at hfit
  obtain ⟨⟨hopc, haux⟩, himm⟩ := hfit
  have hbyte : hdrOpc h = op.byte := BitVec.and_allOnes.symm.trans hopc
  refine ⟨by rw [hbyte, Opcode.ofByte_byte], fun hu => ?_, fun hu => ?_⟩
  · rw [if_neg (by simp [hu])] at haux
    exact BitVec.and_allOnes.symm.trans haux
  · rw [if_neg (by simp [hu])] at himm
    exact BitVec.and_allOnes.symm.trans himm

theorem recordOperand_of_reserved {r0 : Word} (h : r0 &&& 0xFFF00000#32 = 0#32) (r1 r2 : Word) :
    ∃ r, recordOperand r0 r1 r2 = .ok r :=
  ⟨_, if_pos ((top_field_eq_zero_iff r0 _ rfl (by decide)).2 h)⟩

theorem recordOperands_of_maskedZero {ws : List Word} {k : Nat} (hlen : ws.length = 3 * k)
    (hmasked : MaskedZero (reservedBits .rxIrq) ws) : ∃ rs, recordOperands ws = .ok rs := by
  have hperiod : (fun j => reservedBits .rxIrq (j + 1 + 1 + 1)) = reservedBits .rxIrq := by
    funext j; simp [reservedBits, Nat.add_assoc]
  induction k generalizing ws with
  | zero => rw [List.length_eq_zero_iff.1 hlen]; exact ⟨[], rfl⟩
  | succ k ih =>
    match ws, hlen with
    | r0 :: r1 :: r2 :: rest, hlen =>
      simp only [maskedZero_cons, hperiod] at hmasked
      obtain ⟨h0, -, -, hrest⟩ := hmasked
      obtain ⟨r, hr⟩ := recordOperand_of_reserved h0 r1 r2
      obtain ⟨rs, hrs⟩ := ih (by simpa [Nat.mul_succ] using hlen) hrest
      exact ⟨r :: rs, by simp only [recordOperands, hr, hrs]⟩

/-- Operand words of the row's count with no reserved bit set are read as a command. -/
theorem decodeOperands_of_row {op : Opcode} {aux : Byte} {imm : Half} {ws : List Word}
    (hlen : ws.length = op.operandWords aux) (hmasked : MaskedZero (reservedBits op) ws) :
    ∃ i, decodeOperands op aux imm ws = .ok i := by
  cases op
  case rxIrq =>
    obtain ⟨rs, hrs⟩ := recordOperands_of_maskedZero hlen hmasked
    exact ⟨.rxIrq rs, by simp only [decodeOperands, hrs]; rfl⟩
  case idDecode | pqPop | pqPeek | pqSize | regInit | regLookup | ackTick | handlerReturn | csrRead
      | txReadyIrq => exact ⟨_, rfl⟩
  case idEncode | csrWrite => match ws, hlen with | [_], _ => exact ⟨_, rfl⟩
  case regDefault | regAdd => match ws, hlen with | [_, _], _ => exact ⟨_, rfl⟩
  case packU32 | packU64 => match ws, hlen with | [_, _, _], _ => exact ⟨_, rfl⟩
  case pqInit | processEvent =>
    match ws, hlen with
    | [w0], _ =>
      simpa [decodeOperands, halfOperand_bind_eq_ok, reservedBits] using hmasked
  case canInit =>
    match ws, hlen with
    | [w0, w1], _ =>
      simpa [decodeOperands, halfOperand_bind_eq_ok, reservedBits] using hmasked
  case pqPush =>
    match ws, hlen with
    | [w0, w1, w2, w3], _ =>
      simpa [decodeOperands, frameOperand_bind_eq_ok, reservedBits] using hmasked
  case transmit =>
    match ws, hlen with
    | [w0, w1, w2, w3, w4, w5], _ =>
      simpa [decodeOperands, frameOperand_bind_eq_ok, reservedBits] using hmasked
  case packU16 =>
    match ws, hlen with
    | [w0, w1, w2, w3, w4], _ =>
      simpa [decodeOperands, halfOperand_bind_eq_ok, reservedBits] using hmasked
  case packU8 =>
    match ws, hlen with
    | [w0, w1, w2, w3, w4, w5, w6, w7, w8], _ =>
      simpa [decodeOperands, byteOperand_bind_eq_ok, reservedBits] using hmasked

theorem decode_of_isCommand {op : Opcode} {p : Port} {h : Word} {ops : List Word}
    (hc : IsCommand op p h ops) : ∃ i, decode p (h :: ops) = .ok i ∧ i.opcode = op := by
  obtain ⟨hfit, hport, hcount, hmasked⟩ := hc
  obtain ⟨hop, haux, himm⟩ := fields_of_fitsRow hfit
  have hlen : ops.length = op.operandWords (hdrAux h) := by
    simpa [rowWords_eq_operandWords] using hcount
  obtain ⟨i, hi⟩ := decodeOperands_of_row (imm := hdrImm h) hlen hmasked
  exact ⟨i, decode_cons_eq_ok_iff.2
    ⟨op, hop, (rowPort_eq_port op).symm.trans hport, haux, himm, hlen, hi⟩,
    (decodeOperands_row hi hlen).1⟩

/-- Settles O3: a header that fits a row says its opcode, and then decode checks the rest of what
makes the words a command of that row. -/
theorem decodingIsTheOpcodeTable : Obligations.DecodingIsTheOpcodeTable :=
  ⟨fun _ _ _ _ => decode_of_isCommand, fun _ _ _ _ => isCommand_of_decode⟩

end Sys2Proof.Machine
end

section
/-! What a command can do, said once: `CommandEffect` has one constructor for each way a command can
end, and every command answers a next state in one of these ways (R104, R341, R360). -/

namespace Sys2Proof.Machine

open Sys2Proof

/-- The statuses other than OK that a command can answer (R342 to R345 and the commands' rules). -/
def refusals : Opcode → List Status
  | .idEncode => [.invalidArgument]
  | .idDecode => []
  | .packU8 => []
  | .packU16 => []
  | .packU32 => []
  | .packU64 => []
  | .pqInit => [.busy, .invalidArgument]
  | .pqPush => [.uninitialized, .resourceExhausted]
  | .pqPop => [.uninitialized, .empty]
  | .pqPeek => [.uninitialized, .empty]
  | .pqSize => [.uninitialized]
  | .regInit => [.busy, .invalidArgument]
  | .regDefault => [.uninitialized]
  | .regAdd => [.uninitialized, .invalidArgument, .resourceExhausted]
  | .regLookup => [.uninitialized, .notFound]
  | .ackTick => [.busy, .uninitialized]
  | .canInit => [.busy, .invalidArgument]
  | .transmit => [.uninitialized, .invalidArgument, .resourceExhausted]
  | .processEvent => [.busy, .uninitialized]
  | .handlerReturn => [.noCallout]
  | .csrRead => [.illegalCommand]
  | .csrWrite => [.illegalCommand, .invalidArgument]
  | .rxIrq => [.illegalCommand, .uninitialized]
  | .txReadyIrq => [.uninitialized]

/-- What is left to do once an RX_IRQ has delivered its frames: raise the RX event, if any was
pushed (R280). -/
def rxRaised (p : State × Nat) : State :=
  if p.2 > 0 then p.1.evRaise p.1.blk.rxEventId (BitVec.ofNat 16 p.2) else p.1

/-- How a command can take s to a next state: it is refused, or answers from a block it does not
change, or does what its own rule says. -/
inductive CommandEffect (s : State) : Instr → State → Prop
  | refused {i : Instr} {st : Status} (n : Nat) (hst : st ∈ refusals i.opcode) :
      CommandEffect s i (({ s with draws := n } : State).raiseOn i.port st)
  | answered {i : Instr} (n : Nat) (v : Half) (ws : List Word) (hport : i.port = .host) :
      CommandEffect s i (({ s with draws := n } : State).doneHost .ok v ws)
  | pqInit {n k : Half} (hc : s.blk.engCallout = .none) (hn : n.toNat ≤ s.params.rxqMaxSlots) :
      CommandEffect s (.pqInit n k)
        (({ s with blk.rxqCap := n, blk.rxq := [], blk.rxqInit := true } : State).doneHost .ok 0 [])
  | pqPush {prio : Half} {f : Frame} (hi : s.blk.rxqInit = true)
      (hroom : s.blk.rxq.length ≠ s.blk.rxqCap.toNat) :
      CommandEffect s (.pqPush prio f)
        ((s.setRxq (s.blk.rxq ++ [{ key := prio, frame := f }])).doneHost .ok 0 [])
  | pqPop {e : QEntry} (hi : s.blk.rxqInit = true) (he : sel s.blk.rxq = some e) :
      CommandEffect s .pqPop ((s.setRxq (withoutSel s.blk.rxq)).doneHost .ok e.key e.frame.words)
  | regInit {c : Half} (hc : s.blk.engCallout = .none) (hn : c.toNat ≤ s.params.regMaxEntries) :
      CommandEffect s (.regInit c)
        (({ s with blk.regCap := c, blk.reg := [], blk.regDefault := none, blk.regInit := true } :
          State).doneHost .ok 0 [])
  | regDefault {cb ctx : Word} (hi : s.blk.regInit = true) :
      CommandEffect s (.regDefault cb ctx)
        (({ s with blk.regDefault := some { cb := cb, ctx := ctx } } : State).doneHost .ok 0 [])
  | regAdd {m : Half} {cb ctx : Word} (hi : s.blk.regInit = true) (hm : m.toNat ≤ 63)
      (hroom : s.blk.reg.length ≠ s.blk.regCap.toNat) :
      CommandEffect s (.regAdd m cb ctx)
        (({ s with blk.reg := s.blk.reg ++ [{ msgId := m, cb := cb, ctx := ctx }] } :
          State).doneHost .ok 0 [])
  | tickAnswered (hnone : expiring s.blk.ack = []) :
      CommandEffect s .ackTick (({ s with blk.ack := ticked s.blk.ack } : State).doneHost .ok 0 [])
  | tickBegun (hc : s.blk.engCallout = .none) (hi : s.blk.init = true) :
      CommandEffect s .ackTick
        { s with blk.ack := ticked s.blk.ack, blk.engMode := .tick,
                 blk.engExpired := expiring s.blk.ack, blk.engCount := 0 }
  | canInit {dev rx tx fe : Half} (hc : s.blk.engCallout = .none) (hd : dev.toNat ≤ 15)
      (hids : badEventIds rx tx fe = false) :
      CommandEffect s (.canInit dev rx tx fe)
        (({ s with blk.deviceId := dev, blk.rxEventId := rx, blk.txEventId := tx,
                   blk.faultEventId := fe, blk.txq := [], blk.ack := [], blk.fsmState := .idle,
                   blk.txFailCount := 0, blk.init := true } : State).doneHost .ok 0 [])
  | transmit {f : Frame} {cb ctx : Word} (hi : s.blk.init = true) (hf : validFrame f = true)
      (htable : critical s.blk f = true → s.blk.ack.length ≠ s.params.ackMaxPending)
      (hfifo : s.txFull = false) :
      CommandEffect s (.transmit f cb ctx)
        (((s.txEnqueue f).openAck f cb ctx).doneHost .ok 0 [])
  | rxEvent {e d : Half} (hc : s.blk.engCallout = .none) (hi : s.blk.init = true) :
      CommandEffect s (.processEvent e d)
        { s with blk.fsmState := .handlingRx, blk.engMode := .rx, blk.engRem := d,
                 blk.engStatus := .ok }
  | txEvent {e d : Half} (hc : s.blk.engCallout = .none) (hi : s.blk.init = true) :
      CommandEffect s (.processEvent e d)
        (({ s with blk.fsmState := .handlingTx } : State).txProcess.doneHost .ok 1 [])
  | handlerReturned {st : Byte} {r : Half} (hc : s.blk.engCallout = .handler) :
      CommandEffect s (.handlerReturn st r) (s.leaveCallout.ackReply s.blk.engCur st)
  | ackCallbackReturned {st : Byte} {r : Half} (hc : s.blk.engCallout = .ackCb) :
      CommandEffect s (.handlerReturn st r) s.leaveCallout
  | csrWritten {n : Byte} {v : Word} {c : Csr} {b : Block} (hn : csrOfNum n = some c)
      (hb : csrWritten s.blk v c = some b) :
      CommandEffect s (.csrWrite n v) ((s.withBlk b).doneHost .ok 0 [])
  | rxIrq {rs : List RxRecord} (hi : s.blk.init = true) (hq : s.blk.rxqInit = true) :
      CommandEffect s (.rxIrq rs)
        ((rxRaised (rs.foldl rxDeliver (s, 0))).doneIsr .ok
          (BitVec.ofNat 16 (rs.foldl rxDeliver (s, 0)).2))
  | txReadyIrq (hi : s.blk.init = true) :
      CommandEffect s .txReadyIrq ((s.evRaise s.blk.txEventId 0).doneIsr .ok 0)

/-! ## Each command's effect -/

section Commands

variable (s : State)

theorem execIdEncode_effect (ty : Byte) (msg src : Half) :
    ∃ t, execIdEncode ty msg src s = .next t ∧ CommandEffect s (.idEncode ty msg src) t := by
  unfold execIdEncode
  split_ifs
  · exact ⟨_, rfl, .refused s.draws (.head _)⟩
  · exact ⟨_, rfl, .answered s.draws _ _ rfl⟩

theorem execPqInit_effect (n k : Half) :
    ∃ t, execPqInit n k s = .next t ∧ CommandEffect s (.pqInit n k) t := by
  unfold execPqInit
  split_ifs with hc hbad
  · exact ⟨_, rfl, .refused s.draws (.head _)⟩
  · exact ⟨_, rfl, .refused s.draws (.tail _ (.head _))⟩
  · exact ⟨_, rfl, .pqInit (not_not.1 hc) (by omega)⟩

theorem execPqPush_effect (prio : Half) (f : Frame) :
    ∃ t, execPqPush prio f s = .next t ∧ CommandEffect s (.pqPush prio f) t := by
  unfold execPqPush
  split_ifs with hi hfull
  · exact ⟨_, rfl, .refused s.draws (.head _)⟩
  · exact ⟨_, rfl, .refused s.draws (.tail _ (.head _))⟩
  · exact ⟨_, rfl, .pqPush (by simpa using hi) hfull⟩

theorem execPqPop_effect : ∃ t, execPqPop s = .next t ∧ CommandEffect s .pqPop t := by
  unfold execPqPop
  split_ifs with hi
  · exact ⟨_, rfl, .refused s.draws (.head _)⟩
  · split
    · exact ⟨_, rfl, .refused s.draws (.tail _ (.head _))⟩
    · exact ⟨_, rfl, .pqPop (by simpa using hi) ‹_›⟩

theorem execPqPeek_effect : ∃ t, execPqPeek s = .next t ∧ CommandEffect s .pqPeek t := by
  unfold execPqPeek
  split_ifs
  · exact ⟨_, rfl, .refused s.draws (.head _)⟩
  · split
    · exact ⟨_, rfl, .refused s.draws (.tail _ (.head _))⟩
    · exact ⟨_, rfl, .answered s.draws _ _ rfl⟩

theorem execPqSize_effect : ∃ t, execPqSize s = .next t ∧ CommandEffect s .pqSize t := by
  unfold execPqSize
  split_ifs
  · exact ⟨_, rfl, .refused s.draws (.head _)⟩
  · exact ⟨_, rfl, .answered s.draws _ _ rfl⟩

theorem execRegInit_effect (c : Half) :
    ∃ t, execRegInit c s = .next t ∧ CommandEffect s (.regInit c) t := by
  unfold execRegInit
  split_ifs with hc hbig
  · exact ⟨_, rfl, .refused s.draws (.head _)⟩
  · exact ⟨_, rfl, .refused s.draws (.tail _ (.head _))⟩
  · exact ⟨_, rfl, .regInit (not_not.1 hc) (Nat.le_of_not_lt hbig)⟩

theorem execRegDefault_effect (cb ctx : Word) :
    ∃ t, execRegDefault cb ctx s = .next t ∧ CommandEffect s (.regDefault cb ctx) t := by
  unfold execRegDefault
  split_ifs with hi
  · exact ⟨_, rfl, .refused s.draws (.head _)⟩
  · exact ⟨_, rfl, .regDefault (by simpa using hi)⟩

theorem execRegAdd_effect (m : Half) (cb ctx : Word) :
    ∃ t, execRegAdd m cb ctx s = .next t ∧ CommandEffect s (.regAdd m cb ctx) t := by
  unfold execRegAdd
  split_ifs with hi hm hfull
  · exact ⟨_, rfl, .refused s.draws (.head _)⟩
  · exact ⟨_, rfl, .refused s.draws (.tail _ (.head _))⟩
  · exact ⟨_, rfl, .refused s.draws (.tail _ (.tail _ (.head _)))⟩
  · exact ⟨_, rfl, .regAdd (by simpa using hi) (Nat.le_of_not_lt hm) hfull⟩

theorem execRegLookup_effect (m : Half) :
    ∃ t, execRegLookup m s = .next t ∧ CommandEffect s (.regLookup m) t := by
  unfold execRegLookup
  split_ifs
  · exact ⟨_, rfl, .refused s.draws (.head _)⟩
  · split
    · exact ⟨_, rfl, .refused (s.draws + 1) (.tail _ (.head _))⟩
    · exact ⟨_, rfl, .answered (s.draws + 1) _ _ rfl⟩

theorem execAckTick_effect : ∃ t, execAckTick s = .next t ∧ CommandEffect s .ackTick t := by
  unfold execAckTick
  split_ifs with hc hi hnone
  · exact ⟨_, rfl, .refused s.draws (.head _)⟩
  · exact ⟨_, rfl, .refused s.draws (.tail _ (.head _))⟩
  · exact ⟨_, rfl, .tickAnswered hnone⟩
  · exact ⟨_, rfl, .tickBegun (not_not.1 hc) (by simpa using hi)⟩

theorem execCanInit_effect (dev rx tx fe : Half) :
    ∃ t, execCanInit dev rx tx fe s = .next t ∧ CommandEffect s (.canInit dev rx tx fe) t := by
  unfold execCanInit
  split_ifs with hc hd hids
  · exact ⟨_, rfl, .refused s.draws (.head _)⟩
  · exact ⟨_, rfl, .refused s.draws (.tail _ (.head _))⟩
  · exact ⟨_, rfl, .refused s.draws (.tail _ (.head _))⟩
  · exact ⟨_, rfl, .canInit (not_not.1 hc) (Nat.le_of_not_lt hd) (by simpa using hids)⟩

theorem execTransmit_effect (f : Frame) (cb ctx : Word) :
    ∃ t, execTransmit f cb ctx s = .next t ∧ CommandEffect s (.transmit f cb ctx) t := by
  unfold execTransmit
  split_ifs with hi hf htable hfifo
  · exact ⟨_, rfl, .refused s.draws (.head _)⟩
  · exact ⟨_, rfl, .refused s.draws (.tail _ (.head _))⟩
  · exact ⟨_, rfl, .refused s.draws (.tail _ (.tail _ (.head _)))⟩
  · exact ⟨_, rfl, .refused s.draws (.tail _ (.tail _ (.head _)))⟩
  · exact ⟨_, rfl, .transmit (by simpa using hi) (by simpa using hf) (not_and.1 htable)
      (by simpa using hfifo)⟩

theorem execProcessEvent_effect (e d : Half) :
    ∃ t, execProcessEvent e d s = .next t ∧ CommandEffect s (.processEvent e d) t := by
  unfold execProcessEvent
  split_ifs with hc hi
  · exact ⟨_, rfl, .refused s.draws (.head _)⟩
  · exact ⟨_, rfl, .refused s.draws (.tail _ (.head _))⟩
  · exact ⟨_, rfl, .rxEvent (not_not.1 hc) (by simpa using hi)⟩
  · exact ⟨_, rfl, .txEvent (not_not.1 hc) (by simpa using hi)⟩
  · exact ⟨_, rfl, .answered s.draws _ _ rfl⟩

theorem execHandlerReturn_effect (st : Byte) (r : Half) :
    ∃ t, execHandlerReturn st r s = .next t ∧ CommandEffect s (.handlerReturn st r) t := by
  unfold execHandlerReturn
  split
  · exact ⟨_, rfl, .refused s.draws (.head _)⟩
  · exact ⟨_, rfl, .handlerReturned ‹_›⟩
  · exact ⟨_, rfl, .ackCallbackReturned ‹_›⟩

theorem execCsrRead_effect (n : Byte) :
    ∃ t, execCsrRead n s = .next t ∧ CommandEffect s (.csrRead n) t := by
  unfold execCsrRead
  split
  · exact ⟨_, rfl, .refused s.draws (.head _)⟩
  · exact ⟨_, rfl, .answered s.draws _ _ rfl⟩

theorem execCsrWrite_effect (n : Byte) (v : Word) :
    ∃ t, execCsrWrite n v s = .next t ∧ CommandEffect s (.csrWrite n v) t := by
  unfold execCsrWrite
  split
  · exact ⟨_, rfl, .refused s.draws (.head _)⟩
  next hn =>
    split
    · exact ⟨_, rfl, .refused s.draws (.tail _ (.head _))⟩
    next hb => exact ⟨_, rfl, .csrWritten hn hb⟩

theorem execRxIrq_eq_of_init {rs : List RxRecord}
    (hrs : ¬ rs.any (fun r => decide (r.dlc.toNat > 8)) = true)
    (hi : ¬ (s.blk.init = false ∨ s.blk.rxqInit = false)) :
    execRxIrq rs s =
      .next ((rxRaised (rs.foldl rxDeliver (s, 0))).doneIsr .ok
        (BitVec.ofNat 16 (rs.foldl rxDeliver (s, 0)).2)) := by
  rw [execRxIrq, if_neg hrs, if_neg hi, rxRaised]
  dsimp only
  split_ifs <;> rfl

theorem execRxIrq_effect (rs : List RxRecord) :
    ∃ t, execRxIrq rs s = .next t ∧ CommandEffect s (.rxIrq rs) t := by
  by_cases hrs : rs.any (fun r => decide (r.dlc.toNat > 8)) = true
  · exact ⟨_, if_pos hrs, .refused s.draws (.head _)⟩
  by_cases hi : s.blk.init = false ∨ s.blk.rxqInit = false
  · exact ⟨_, (if_neg hrs).trans (if_pos hi), .refused s.draws (.tail _ (.head _))⟩
  · have hflags := hi
    simp only [not_or, Bool.not_eq_false] at hflags
    exact ⟨_, execRxIrq_eq_of_init s hrs hi, .rxIrq hflags.1 hflags.2⟩

theorem execTxReadyIrq_effect :
    ∃ t, execTxReadyIrq s = .next t ∧ CommandEffect s .txReadyIrq t := by
  unfold execTxReadyIrq
  split_ifs with hi
  · exact ⟨_, rfl, .refused s.draws (.head _)⟩
  · exact ⟨_, rfl, .txReadyIrq (by simpa using hi)⟩

theorem exec_effect (i : Instr) : ∃ t, exec i s = .next t ∧ CommandEffect s i t := by
  cases i with
  | idEncode ty msg src => exact execIdEncode_effect s ty msg src
  | idDecode w => exact ⟨_, rfl, .answered s.draws _ _ rfl⟩
  | packU8 => exact ⟨_, rfl, .answered s.draws _ _ rfl⟩
  | packU16 => exact ⟨_, rfl, .answered s.draws _ _ rfl⟩
  | packU32 => exact ⟨_, rfl, .answered s.draws _ _ rfl⟩
  | packU64 => exact ⟨_, rfl, .answered s.draws _ _ rfl⟩
  | pqInit n k => exact execPqInit_effect s n k
  | pqPush prio f => exact execPqPush_effect s prio f
  | pqPop => exact execPqPop_effect s
  | pqPeek => exact execPqPeek_effect s
  | pqSize => exact execPqSize_effect s
  | regInit c => exact execRegInit_effect s c
  | regDefault cb ctx => exact execRegDefault_effect s cb ctx
  | regAdd m cb ctx => exact execRegAdd_effect s m cb ctx
  | regLookup m => exact execRegLookup_effect s m
  | ackTick => exact execAckTick_effect s
  | canInit dev rx tx fe => exact execCanInit_effect s dev rx tx fe
  | transmit f cb ctx => exact execTransmit_effect s f cb ctx
  | processEvent e d => exact execProcessEvent_effect s e d
  | handlerReturn st r => exact execHandlerReturn_effect s st r
  | csrRead n => exact execCsrRead_effect s n
  | csrWrite n v => exact execCsrWrite_effect s n v
  | rxIrq rs => exact execRxIrq_effect s rs
  | txReadyIrq => exact execTxReadyIrq_effect s

end Commands

theorem CommandEffect.of_exec {i : Instr} {s t : State} (h : exec i s = .next t) :
    CommandEffect s i t := by
  obtain ⟨u, hu, heff⟩ := exec_effect s i
  cases hu.symm.trans h
  exact heff

end Sys2Proof.Machine
end

section
/-! What an Engine step (45_rxtx.md R270) and a step of the machine (20_memory.md R86, R90) can do,
said once, and which step each turn to come makes. -/

namespace Sys2Proof.Machine

open Sys2Proof

/-! ## Engine steps -/

/-- The RX Engine has taken the entry served next: it has left the queue, and the batch owes one
frame less (R271). -/
def State.takeServed (s : State) : State :=
  { s.setRxq (withoutSel s.blk.rxq) with blk.engRem := s.blk.engRem - 1 }

@[simp] theorem State.takeServed_blk (s : State) :
    s.takeServed.blk =
      { s.blk with rxq := retie s.params.pqTie s.draws (withoutSel s.blk.rxq),
                   engRem := s.blk.engRem - 1 } := rfl
@[simp] theorem State.takeServed_params (s : State) : s.takeServed.params = s.params := rfl
@[simp] theorem State.takeServed_busLog (s : State) : s.takeServed.busLog = s.busLog := rfl
@[simp] theorem State.takeServed_turns (s : State) : s.takeServed.turns = s.turns := rfl
@[simp] theorem State.takeServed_turnCycle (s : State) : s.takeServed.turnCycle = s.turnCycle := rfl
@[simp] theorem State.takeServed_hostOut (s : State) : s.takeServed.hostOut = s.hostOut := rfl
@[simp] theorem State.rxFinish_blk (s : State) :
    s.rxFinish.blk = { s.blk with engMode := .idle, engRem := 0, engStatus := .ok } := rfl
@[simp] theorem State.rxFinish_params (s : State) : s.rxFinish.params = s.params := rfl
@[simp] theorem State.rxFinish_busLog (s : State) : s.rxFinish.busLog = s.busLog := rfl
@[simp] theorem State.rxFinish_turns (s : State) : s.rxFinish.turns = s.turns := rfl
@[simp] theorem State.rxFinish_turnCycle (s : State) : s.rxFinish.turnCycle = s.turnCycle := rfl
@[simp] theorem State.rxFinish_hostOut (s : State) :
    s.rxFinish.hostOut = s.hostOut ++ [doneWords s.blk.engStatus 1 []] := rfl

/-- How the Engine can take s to its next state. -/
inductive EngineEffect (s : State) : State → Prop
  | rest (hm : s.blk.engMode = .idle) : EngineEffect s s
  | rxDone (hm : s.blk.engMode = .rx) (hr : s.blk.engRem = 0) : EngineEffect s s.rxFinish
  | rxShort (hm : s.blk.engMode = .rx) (hr : s.blk.engRem ≠ 0) (hq : s.blk.rxq = []) :
      EngineEffect s (s.mark .rxShort).rxFinish
  | rxForeign (e : QEntry) (hm : s.blk.engMode = .rx) (hr : s.blk.engRem ≠ 0)
      (he : sel s.blk.rxq = some e) :
      EngineEffect s
        ({ s.takeServed.mark .rxInconsistent with
            blk.engStatus := .internalInconsistency } : State).rxFinish
  | ackUnmatched (e : QEntry) (hm : s.blk.engMode = .rx) (hr : s.blk.engRem ≠ 0)
      (he : sel s.blk.rxq = some e) : EngineEffect s (s.takeServed.mark .ackNomatch)
  | ackResolved (e : QEntry) (l r : List AckEntry) (a : AckEntry) (hm : s.blk.engMode = .rx)
      (hr : s.blk.engRem ≠ 0) (he : sel s.blk.rxq = some e) (ha : s.blk.ack = l ++ a :: r) :
      EngineEffect s
        (({ s.takeServed with blk.ack := l ++ r } : State).enterCallout .ackCb
          (calloutAckWords a e.frame.msgId e.frame.sourceId .acked (u8Field e.frame.data 0)))
  | handlerCalled (e : QEntry) (h : Handler) (hm : s.blk.engMode = .rx) (hr : s.blk.engRem ≠ 0)
      (he : sel s.blk.rxq = some e) :
      EngineEffect s
        (({ s.takeServed.nextDraw with blk.engCur := e.frame } : State).enterCallout .handler
          (calloutHandlerWords h e.frame))
  | replied (e : QEntry) (hm : s.blk.engMode = .rx) (hr : s.blk.engRem ≠ 0)
      (he : sel s.blk.rxq = some e) :
      EngineEffect s (s.takeServed.nextDraw.ackReply e.frame 0x00)
  | tickDone (hm : s.blk.engMode = .tick) (hx : s.blk.engExpired = []) :
      EngineEffect s
        (({ s with blk.engMode := .idle, blk.engCount := 0 } : State).doneHost .ok
          s.blk.engCount [])
  | tickExpiry (a : AckEntry) (rest : List AckEntry) (hm : s.blk.engMode = .tick)
      (hx : s.blk.engExpired = a :: rest) :
      EngineEffect s
        (({ s with blk.engExpired := rest, blk.engCount := s.blk.engCount + 1 } :
          State).enterCallout .ackCb (expiryWords a))

theorem engineStep_of_rx {s : State} (hm : s.blk.engMode = .rx) : engineStep s = rxStep s := by
  rw [engineStep, hm]

theorem rxStep_of_sel {s : State} {e : QEntry} (hr : s.blk.engRem ≠ 0)
    (he : sel s.blk.rxq = some e) : rxStep s = s.takeServed.rxFrame e.frame := by
  rw [rxStep, if_neg hr, he]
  rfl

theorem rxStep_effect {s : State} (hm : s.blk.engMode = .rx) : EngineEffect s (rxStep s) := by
  obtain ⟨hr, e⟩ | ⟨hr, hq, e⟩ | ⟨q, hr, he, -⟩ := rxStep_cases s
  · rw [e]; exact .rxDone hm hr
  · rw [e]; exact .rxShort hm hr hq
  rw [rxStep_of_sel hr he, State.rxFrame]
  split_ifs
  · obtain ⟨-, e⟩ | ⟨l, a, r, ha, -, -, e⟩ := s.takeServed.resolve_cases q.frame <;> rw [e]
    · exact .ackUnmatched q hm hr he
    · exact .ackResolved q l r a hm hr he ha
  · obtain ⟨h, -, e⟩ | ⟨-, e⟩ := s.takeServed.dispatch_cases q.frame <;> rw [e]
    · exact .handlerCalled q h hm hr he
    · exact .replied q hm hr he
  · exact .rxForeign q hm hr he

theorem tickStep_effect {s : State} (hm : s.blk.engMode = .tick) :
    EngineEffect s (tickStep s) := by
  cases hx : s.blk.engExpired with
  | nil => rw [tickStep_of_nil hx]; exact .tickDone hm hx
  | cons a rest => rw [tickStep_of_cons hx]; exact .tickExpiry a rest hm hx

theorem engineStep_effect (s : State) : EngineEffect s (engineStep s) := by
  unfold engineStep
  split
  next hm => exact .rest hm
  next hm => exact rxStep_effect hm
  next hm => exact tickStep_effect hm

/-! ## The step that a turn to come makes (R270, R344, R347, R352, R359) -/

section Due

variable {s : State} {rest : List Turn}

theorem step_of_due_host {ws : List Word} (h : s.dueTurns = .host ws :: rest)
    (hready : s.blk.hostWaiting = false) :
    step s = runCommand .host ws { s with turns := rest } := by
  simp [step, nextTransition, h, hready, takeTurn]

theorem step_of_due_process (h : s.dueTurns = .process :: rest)
    (hready : s.blk.hostWaiting = false) :
    step s = .next ({ s with turns := rest } : State).processCall := by
  simp [step, nextTransition, h, hready, takeTurn]

theorem decode_eventWords (e : Event) :
    decode .host (eventWords e) = .ok (.processEvent e.id e.data) :=
  decode_encode (i := .processEvent e.id e.data) rfl

theorem runCommand_of_decode {p : Port} {ws : List Word} {i : Instr} (h : decode p ws = .ok i)
    (u : State) : runCommand p ws u = exec i u := by
  rw [runCommand, h]

theorem step_of_due_forward {e : Event} (h : s.dueTurns = .forward :: rest)
    (hready : s.blk.hostWaiting = false) (htaken : s.taken = some e) :
    step s = exec (.processEvent e.id e.data) { s with turns := rest, taken := none } := by
  rw [← runCommand_of_decode (decode_eventWords e)]
  simp [step, nextTransition, h, hready, takeTurn, htaken]

/-- A turn of the Host agent waits, and the Engine moves, while the host is owed a response. -/
theorem step_of_host_waits {t : Turn} (h : s.dueTurns = t :: rest) (hhost : isHostTurn t = true)
    (hwait : s.blk.hostWaiting = true) : step s = .next (engineStep s) := by
  simp [step, nextTransition, h, hhost, hwait]

theorem step_of_none_due (h : s.dueTurns = []) :
    step s = .next (if s.blk.hostWaiting then engineStep s else s) := by
  simp only [step, nextTransition, h]
  split <;> rfl

end Due

/-! ## Steps -/

/-- The turns a step leaves: those listed, or what comes after the turn that was due. -/
def State.Leaves (s : State) (q : List Turn) : Prop := q = s.turns ∨ ∃ v, s.dueTurns = v :: q

/-- How a step can take s to its next state: one constructor for each agent, and for what its turn
carries. -/
inductive StepEffect (s : State) : State → Prop
  | rest (q : List Turn) (hq : s.Leaves q) (hnone : hostCommandTaken s = false) :
      StepEffect s { s with turns := q }
  | engine (q : List Turn) (hq : s.Leaves q) (hwait : s.blk.hostWaiting = true) :
      StepEffect s (engineStep { s with turns := q })
  | host {ws : List Word} {q : List Turn} {i : Instr} {t : State}
      (hdue : s.dueTurns = .host ws :: q) (hready : s.blk.hostWaiting = false)
      (hi : decode .host ws = .ok i) (hrun : exec i { s with turns := q } = .next t) :
      StepEffect s t
  | hostIllegal {ws : List Word} {q : List Turn} (hdue : s.dueTurns = .host ws :: q)
      (hready : s.blk.hostWaiting = false) :
      StepEffect s (({ s with turns := q } : State).raiseHost .illegalCommand)
  | isr {ws : List Word} {q : List Turn} {i : Instr} {t : State}
      (hdue : s.dueTurns = .isr ws :: q) (hi : decode .isr ws = .ok i)
      (hrun : exec i { s with turns := q } = .next t) : StepEffect s t
  | isrIllegal {ws : List Word} {q : List Turn} (hdue : s.dueTurns = .isr ws :: q) :
      StepEffect s (({ s with turns := q } : State).raiseIsr .illegalCommand)
  | process {q : List Turn} (hdue : s.dueTurns = .process :: q)
      (hready : s.blk.hostWaiting = false) :
      StepEffect s ({ s with turns := q } : State).processCall
  | forward {e : Event} {q : List Turn} {t : State} (hdue : s.dueTurns = .forward :: q)
      (hready : s.blk.hostWaiting = false) (htaken : s.taken = some e)
      (hrun : exec (.processEvent e.id e.data) { s with turns := q, taken := none } = .next t) :
      StepEffect s t
  | collaborator {e : Event} {q : List Turn} (hdue : s.dueTurns = .collaborator e :: q) :
      StepEffect s (({ s with turns := q } : State).evRaise e.id e.data)
  | reset {q : List Turn} (hdue : s.dueTurns = .reset :: q) :
      StepEffect s { s with turns := q, blk := State.reset.blk }

theorem runCommand_cases {p : Port} {ws : List Word} {s t : State}
    (h : runCommand p ws s = .next t) :
    (∃ i, decode p ws = .ok i ∧ exec i s = .next t) ∨ t = s.raiseOn p .illegalCommand := by
  unfold runCommand at h
  split at h
  next i hi => exact .inl ⟨i, hi, h⟩
  next => cases h; exact .inr rfl

theorem hostCommandTaken_of_waiting {s : State} (h : s.blk.hostWaiting = true) :
    hostCommandTaken s = false := by
  simp [hostCommandTaken, h]

/-- The effect of a turn that is taken: no turn of the Host agent while the host waits. -/
theorem takeTurn_effect {s t : State} {v : Turn} {q : List Turn} (hdue : s.dueTurns = v :: q)
    (hready : isHostTurn v = true → s.blk.hostWaiting = false)
    (h : takeTurn v { s with turns := q } = .next t) : StepEffect s t := by
  cases v with
  | host ws =>
    obtain ⟨i, hi, hrun⟩ | rfl := runCommand_cases h
    · exact .host hdue (hready rfl) hi hrun
    · exact .hostIllegal hdue (hready rfl)
  | isr ws =>
    obtain ⟨i, hi, hrun⟩ | rfl := runCommand_cases h
    · exact .isr hdue hi hrun
    · exact .isrIllegal hdue
  | engine =>
    simp only [takeTurn] at h
    split_ifs at h with hwait <;> cases h
    · exact .engine q (.inr ⟨_, hdue⟩) hwait
    · exact .rest q (.inr ⟨_, hdue⟩) (by simp [hostCommandTaken, hdue])
  | process => cases h; exact .process hdue (hready rfl)
  | forward =>
    cases htaken : s.taken with
    | none =>
      have hnone : hostCommandTaken s = false := by simp [hostCommandTaken, hdue, htaken]
      have hstay : takeTurn .forward { s with turns := q } = .next { s with turns := q } := by
        simp only [takeTurn, htaken]
      cases hstay.symm.trans h
      exact .rest q (.inr ⟨_, hdue⟩) hnone
    | some e =>
      simp only [takeTurn, htaken, runCommand_of_decode (decode_eventWords e)] at h
      exact .forward hdue (hready rfl) htaken h
  | collaborator e => cases h; exact .collaborator hdue
  | reset => cases h; exact .reset hdue

theorem StepEffect.of_step {s t : State} (h : step s = .next t) : StepEffect s t := by
  cases hdue : s.dueTurns with
  | nil =>
    rw [step_of_none_due hdue] at h
    cases h
    split
    next hwait => exact .engine s.turns (.inl rfl) hwait
    next => exact .rest s.turns (.inl rfl) (by simp [hostCommandTaken, hdue])
  | cons v q =>
    by_cases hwaits : isHostTurn v = true ∧ s.blk.hostWaiting = true
    · rw [step_of_host_waits hdue hwaits.1 hwaits.2] at h
      cases h
      exact .engine s.turns (.inl rfl) hwaits.2
    · refine takeTurn_effect hdue (fun hv => by simpa [hv] using hwaits) ?_
      simpa [step, nextTransition, hdue, hwaits] using h

/-! ## Every step answers a next state (R360) -/

theorem runCommand_next (p : Port) (ws : List Word) (s : State) :
    ∃ t, runCommand p ws s = .next t := by
  unfold runCommand
  split
  next i _ =>
    obtain ⟨t, ht, -⟩ := exec_effect s i
    exact ⟨t, ht⟩
  next => exact ⟨_, rfl⟩

theorem takeTurn_next (v : Turn) (s : State) : ∃ t, takeTurn v s = .next t := by
  cases v with
  | host ws => exact runCommand_next .host ws s
  | isr ws => exact runCommand_next .isr ws s
  | engine =>
    simp only [takeTurn]
    split <;> exact ⟨_, rfl⟩
  | process => exact ⟨_, rfl⟩
  | forward =>
    simp only [takeTurn]
    split
    · exact runCommand_next _ _ _
    · exact ⟨_, rfl⟩
  | collaborator e => exact ⟨_, rfl⟩
  | reset => exact ⟨_, rfl⟩

/-- Settles O9: every command answers a next state, and so does every other turn. -/
theorem stepNeverFaultsOrRefuses : Obligations.StepNeverFaultsOrRefuses := by
  intro s
  unfold step nextTransition
  split
  · split <;> exact ⟨_, rfl⟩
  · split
    · exact ⟨_, rfl⟩
    · exact takeTurn_next _ _

theorem runCommand_of_decode_error {p : Port} {ws : List Word} {r : Reject}
    (h : decode p ws = .error r) (u : State) :
    runCommand p ws u = .next (illegalAnswer p u) :=
  runCommand_of_not_decode (fun i hi => by simp [h] at hi) u

theorem isHostTurn_of_agent {t : Turn} (h : (∃ ws, t = .host ws) ∨ t = .process ∨ t = .forward) :
    isHostTurn t = true := by
  obtain ⟨ws, rfl⟩ | rfl | rfl := h <;> rfl

/-- Settles O8: the turn to come is taken where its port is ready, and its words are then run as
they decode. -/
theorem stepRunsTheDecodedCommand : Obligations.StepRunsTheDecodedCommand := by
  refine ⟨fun s ws rest i hdue hready hi => ?_, fun s ws rest i hdue hi => ?_,
    fun s ws rest r hdue hready hr => ?_, fun s ws rest r hdue hr => ?_,
    fun s t rest hdue hagent hwait => step_of_host_waits hdue (isHostTurn_of_agent hagent) hwait,
    fun s hnone => ⟨fun hwait => ?_, fun hready => ?_⟩,
    fun s => ⟨fun hne => ?_, s.dueTurns_nil⟩⟩
  · rw [step_of_due_host hdue hready, runCommand_of_decode hi]
  · rw [step_of_due_isr hdue, runCommand_of_decode hi]
  · rw [step_of_due_host hdue hready, runCommand_of_decode_error hr]
  · rw [step_of_due_isr hdue, runCommand_of_decode_error hr]
  · rw [step_of_none_due hnone, if_pos hwait]
  · rw [step_of_none_due hnone, if_neg (by simp [hready])]
  · obtain ⟨t, rest, hturns⟩ := List.exists_cons_of_ne_nil hne
    rw [s.dueTurns_cons hturns, hturns]

/-- Settles O10: process() takes the head of the event queue, and the words of a forwarded event
decode to PROCESS_EVENT. -/
theorem hostDrainsEventsInOrder : Obligations.HostDrainsEventsInOrder := by
  refine fun s rest hready => ⟨fun e es hdue hevq => ?_, fun hdue hevq => ?_,
    fun e hdue htaken => step_of_due_forward hdue hready htaken⟩
  · rw [step_of_due_process hdue hready, State.processCall, hevq]
    rfl
  · rw [step_of_due_process hdue hready, State.processCall, hevq]
    rfl

end Sys2Proof.Machine
end

section
/-! Every step keeps the invariant of Safety.lean: each way a command, the Engine or another turn
can change the state needs only what the invariant says of the state before. -/

namespace Sys2Proof.Machine

open Sys2Proof

/-! ## What a command changes -/

theorem ticked_length_le (ack : List AckEntry) : (ticked ack).length ≤ ack.length := by
  rw [ticked, List.length_map]
  exact List.length_filter_le _ _

theorem Block.hostWaiting_eq_true {b : Block} :
    b.hostWaiting = true ↔ b.engMode ≠ .idle ∧ b.engCallout = .none := by
  simp [Block.hostWaiting]

theorem Block.idle_of_ready {b : Block} (hready : b.hostWaiting = false)
    (hc : b.engCallout = .none) : b.engMode = .idle := by
  by_contra hm
  simp [Block.hostWaiting_eq_true.2 ⟨hm, hc⟩] at hready

section Kept

variable {s : State}

/-- A callout is outstanding in an initialised block only. -/
theorem Inv.init_of_callout (h : Inv s) (hc : s.blk.engCallout ≠ .none) : s.blk.init = true :=
  h.batchInit (h.calloutInBatch hc)

theorem Inv.openAck (h : Inv s) (f : Frame) (cb ctx : Word)
    (htable : critical s.blk f = true → s.blk.ack.length ≠ s.params.ackMaxPending) :
    Inv (s.openAck f cb ctx) := by
  unfold State.openAck
  split
  next hcrit =>
    refine { h with ackBound := ?_ }
    have hbound := h.ackBound
    have hroom := htable hcrit
    simp only [List.length_append, List.length_singleton]
    omega
  next => exact h

theorem Inv.pqPush (h : Inv s) (e : QEntry) (hi : s.blk.rxqInit = true)
    (hroom : s.blk.rxq.length ≠ s.blk.rxqCap.toNat) : Inv (s.setRxq (s.blk.rxq ++ [e])) := by
  refine h.setRxq _ hi ?_
  have hbound := h.rxqBound
  simp only [List.length_append, List.length_singleton]
  omega

/-- The queue is initialised where an entry can be served. -/
theorem Inv.rxqInit_of_sel (h : Inv s) {e : QEntry} (he : sel s.blk.rxq = some e) :
    s.blk.rxqInit = true := by
  by_contra hi
  rw [h.rxqUninit (by simpa using hi)] at he
  cases he

theorem Inv.pqPop (h : Inv s) {e : QEntry} (he : sel s.blk.rxq = some e) :
    Inv (s.setRxq (withoutSel s.blk.rxq)) := by
  refine h.setRxq _ (h.rxqInit_of_sel he) ?_
  have hbound := h.rxqBound
  have hlen := withoutSel_length he
  omega

theorem Inv.regAdd (h : Inv s) {m : Half} (cb ctx : Word) (hi : s.blk.regInit = true)
    (hm : m.toNat ≤ 63) (hroom : s.blk.reg.length ≠ s.blk.regCap.toNat) :
    Inv { s with blk.reg := s.blk.reg ++ [{ msgId := m, cb := cb, ctx := ctx }] } := by
  refine { h with regBound := ?_, regIds := ?_, regUninit := fun h0 => ?_ }
  · have hbound := h.regBound
    simp only [List.length_append, List.length_singleton]
    omega
  · intro e he
    obtain he | he := List.mem_append.1 he
    · exact h.regIds e he
    · rw [List.mem_singleton.1 he]
      exact hm
  · simp [hi] at h0

theorem Inv.csrWritten (h : Inv s) {v : Word} {c : Csr} {b : Block}
    (hb : csrWritten s.blk v c = some b) : Inv (s.withBlk b) := by
  cases c <;> cases hb <;> exact { h with }

theorem Inv.rxDeliver_foldl (rs : List RxRecord) (n : Nat) (h : Inv s)
    (hi : s.blk.rxqInit = true) : Inv (rs.foldl rxDeliver (s, n)).1 := by
  induction rs generalizing s n with
  | nil => exact h
  | cons r rs ih =>
    rw [List.foldl_cons]
    obtain ⟨-, e⟩ | ⟨hroom, e⟩ := rxDeliver_cases s n r <;> rw [e]
    · exact ih n (h.mark _) hi
    · exact ih (n + 1) (h.pqPush _ hi hroom) hi

theorem Inv.rxRaised {p : State × Nat} (h : Inv p.1) : Inv (rxRaised p) := by
  unfold Machine.rxRaised
  split
  · exact h.evRaise _ _
  · exact h

theorem Inv.tickBegun (h : Inv s) (hm : s.blk.engMode = .idle) (hc : s.blk.engCallout = .none)
    (hi : s.blk.init = true) :
    Inv { s with blk.ack := ticked s.blk.ack, blk.engMode := .tick,
                 blk.engExpired := expiring s.blk.ack, blk.engCount := 0 } :=
  { h with
    ackBound := (ticked_length_le _).trans h.ackBound
    batchInit := fun _ => hi
    calloutInBatch := fun hne => absurd hc hne
    handlerInRx := fun hh => by simp [hc] at hh
    remInRx := fun _ => h.remInRx (by simp [hm])
    expiredInTick := fun hne => absurd rfl hne
    expiredBound := by
      have hle : (expiring s.blk.ack).length ≤ s.blk.ack.length := List.length_filter_le _ _
      simpa using hle.trans h.ackBound }

theorem Inv.rxEvent (h : Inv s) (d : Half) (hm : s.blk.engMode = .idle)
    (hi : s.blk.init = true) :
    Inv { s with blk.fsmState := .handlingRx, blk.engMode := .rx, blk.engRem := d,
                 blk.engStatus := .ok } :=
  { h with
    batchInit := fun _ => hi
    calloutInBatch := fun _ => by simp
    handlerInRx := fun _ => rfl
    engStatusOk := rfl
    remInRx := fun hne => absurd rfl hne
    expiredInTick := fun _ => h.expiredInTick (by simp [hm]) }

theorem Inv.canInit (h : Inv s) {dev rx tx fe : Half} (hd : dev.toNat ≤ 15)
    (hids : badEventIds rx tx fe = false) :
    Inv { s with blk.deviceId := dev, blk.rxEventId := rx, blk.txEventId := tx,
                 blk.faultEventId := fe, blk.txq := [], blk.ack := [], blk.fsmState := .idle,
                 blk.txFailCount := 0, blk.init := true } :=
  { h with
    txqBound := Nat.zero_le _
    txqValid := by simp
    ackBound := Nat.zero_le _
    identity := fun _ => ⟨hd, hids⟩
    unset := by simp
    batchInit := fun _ => rfl }

/-- The host port takes a command in a block that runs no batch, or has a callout out (R344). -/
theorem CommandEffect.keeps_inv {i : Instr} {t : State} (heff : CommandEffect s i t) (h : Inv s)
    (hready : i.port = .host → s.blk.hostWaiting = false) : Inv t := by
  cases heff with
  | refused n _ => exact Inv.raiseOn (s := { s with draws := n }) (h.of_eq rfl rfl rfl rfl) _ _
  | answered n v ws _ => exact h.of_eq rfl rfl rfl rfl
  | pqInit hc hn =>
    refine Inv.doneHost ?_ _ _ _
    exact { h with rxqBound := Nat.zero_le _, rxqCapBound := hn, rxqUninit := fun _ => rfl }
  | pqPush hi hroom => exact (h.pqPush _ hi hroom).doneHost _ _ _
  | pqPop _ he => exact (h.pqPop he).doneHost _ _ _
  | regInit hc hn =>
    refine Inv.doneHost ?_ _ _ _
    exact { h with
      regBound := Nat.zero_le _, regCapBound := hn, regIds := by simp
      regUninit := fun _ => ⟨rfl, rfl⟩ }
  | regDefault hi =>
    refine Inv.doneHost ?_ _ _ _
    exact { h with regUninit := fun h0 => by simp [hi] at h0 }
  | regAdd hi hm hroom => exact (h.regAdd _ _ hi hm hroom).doneHost _ _ _
  | tickAnswered _ =>
    refine Inv.doneHost ?_ _ _ _
    exact { h with ackBound := (ticked_length_le _).trans h.ackBound }
  | tickBegun hc hi => exact h.tickBegun (Block.idle_of_ready (hready rfl) hc) hc hi
  | canInit hc hd hids => exact (h.canInit hd hids).doneHost _ _ _
  | transmit hi hf htable hfifo =>
    refine ((h.txEnqueue _ hf hfifo).openAck _ _ _ ?_).doneHost _ _ _
    simpa [critical] using htable
  | rxEvent hc hi => exact h.rxEvent _ (Block.idle_of_ready (hready rfl) hc) hi
  | txEvent hc hi =>
    exact (Inv.txProcess (s := { s with blk.fsmState := .handlingTx }) { h with }).doneHost _ _ _
  | handlerReturned hc =>
    exact h.leaveCallout.ackReply (h.init_of_callout (by simp [hc])) _ _
  | ackCallbackReturned hc => exact h.leaveCallout
  | csrWritten hn hb => exact (h.csrWritten hb).doneHost _ _ _
  | rxIrq hi hq => exact (h.rxDeliver_foldl _ 0 hq).rxRaised.doneIsr _ _
  | txReadyIrq hi => exact (h.evRaise _ _).doneIsr _ _

/-! ## What the Engine changes -/

theorem Inv.takeServed (h : Inv s) (hm : s.blk.engMode = .rx) {e : QEntry}
    (he : sel s.blk.rxq = some e) : Inv s.takeServed :=
  { h.pqPop he with remInRx := fun hne => absurd hm hne }

theorem EngineEffect.keeps_inv {t : State} (heff : EngineEffect s t) (h : Inv s)
    (hwait : s.blk.hostWaiting = true) : Inv t := by
  obtain ⟨-, hc⟩ := Block.hostWaiting_eq_true.1 hwait
  cases heff with
  | rest hm => exact h
  | rxDone hm hr => exact h.rxFinish hm hc _
  | rxShort hm hr hq => exact (h.mark .rxShort).rxFinish hm hc _
  | rxForeign e hm hr he => exact ((h.takeServed hm he).mark .rxInconsistent).rxFinish hm hc _
  | ackUnmatched e hm hr he => exact (h.takeServed hm he).mark _
  | ackResolved e l r a hm hr he ha =>
    refine Inv.enterCallout (s := { s.takeServed with blk.ack := l ++ r }) ?_ _ _ ?_ (by simp)
    · refine { h.takeServed hm he with ackBound := ?_ }
      have hbound := h.ackBound
      simp only [ha, List.length_append, List.length_cons] at hbound
      show (l ++ r).length ≤ s.params.ackMaxPending
      rw [List.length_append]
      omega
    · show s.blk.engMode ≠ .idle
      simp [hm]
  | handlerCalled e x hm hr he =>
    refine Inv.enterCallout (s := { s.takeServed.nextDraw with blk.engCur := e.frame })
      { (h.takeServed hm he).nextDraw with } _ _ ?_ fun _ => hm
    show s.blk.engMode ≠ .idle
    simp [hm]
  | replied e hm hr he =>
    exact (h.takeServed hm he).nextDraw.ackReply (h.batchInit (by simp [hm])) _ _
  | tickDone hm hx =>
    refine Inv.doneHost ?_ _ _ _
    exact { h with
      batchInit := fun hne => absurd rfl hne
      calloutInBatch := fun hne => absurd hc hne
      handlerInRx := fun hh => by simp [hc] at hh
      remInRx := fun _ => h.remInRx (by simp [hm])
      expiredInTick := fun _ => ⟨hx, rfl⟩
      expiredBound := by simp [hx] }
  | tickExpiry a rest hm hx =>
    refine Inv.enterCallout (s := { s with
      blk.engExpired := rest, blk.engCount := s.blk.engCount + 1 }) ?_ _ _ (by simp [hm]) (by simp)
    refine { h with expiredInTick := fun hne => absurd hm hne, expiredBound := ?_ }
    have hbound := h.expiredBound
    simp only [hx, List.length_cons] at hbound
    have hcount : (s.blk.engCount + 1).toNat ≤ s.blk.engCount.toNat + 1 := by
      rw [BitVec.toNat_add]
      exact Nat.mod_le _ _
    show (s.blk.engCount + 1).toNat + rest.length ≤ s.params.ackMaxPending
    omega

/-! ## What the other turns change -/

theorem Inv.processCall (h : Inv s) : Inv s.processCall :=
  { h with evqBound := by simpa using (Nat.sub_le _ 1).trans h.evqBound }

/-- The reset block meets the invariant in every environment that does. -/
theorem Inv.resetBlk (h : Inv s) (q : List Turn) :
    Inv { s with turns := q, blk := State.reset.blk } where
  params := h.params
  evqBound := h.evqBound
  busWellFormed := h.busWellFormed
  rxqBound := Nat.zero_le _
  rxqCapBound := Nat.zero_le _
  rxqUninit := fun _ => rfl
  txqBound := Nat.zero_le _
  txqValid := by simp [State.reset, Block.reset]
  regBound := Nat.zero_le _
  regCapBound := Nat.zero_le _
  regIds := by simp [State.reset, Block.reset]
  regUninit := fun _ => ⟨rfl, rfl⟩
  ackBound := Nat.zero_le _
  identity := by simp [State.reset, Block.reset]
  unset := fun _ => ⟨rfl, rfl, rfl, rfl⟩
  batchInit := fun hne => absurd rfl hne
  calloutInBatch := fun hne => absurd rfl hne
  handlerInRx := by simp [State.reset, Block.reset]
  engStatusOk := rfl
  remInRx := fun _ => rfl
  expiredInTick := fun _ => ⟨rfl, rfl⟩
  expiredBound := Nat.zero_le _

theorem StepEffect.keeps_inv {t : State} (h : Inv s) (heff : StepEffect s t) : Inv t := by
  have hturns : ∀ q, Inv { s with turns := q } := fun q => h.of_eq rfl rfl rfl rfl
  cases heff with
  | rest q _ _ => exact hturns q
  | engine q _ hwait => exact (engineStep_effect _).keeps_inv (hturns q) hwait
  | host _ hready _ hrun => exact (CommandEffect.of_exec hrun).keeps_inv (hturns _) fun _ => hready
  | hostIllegal _ _ => exact (hturns _).raiseHost _
  | isr _ hi hrun =>
    refine (CommandEffect.of_exec hrun).keeps_inv (hturns _) fun hhost => ?_
    obtain ⟨-, hport, -⟩ := encode_of_decode hi
    cases hport.symm.trans hhost
  | isrIllegal _ => exact (hturns _).raiseIsr _
  | process _ _ => exact (hturns _).processCall
  | forward _ hready _ hrun =>
    exact (CommandEffect.of_exec hrun).keeps_inv (h.of_eq rfl rfl rfl rfl) fun _ => hready
  | collaborator _ => exact (hturns _).evRaise _ _
  | reset _ => exact h.resetBlk _

end Kept

/-- Settles O49: whichever way a step goes, it keeps the invariant. -/
theorem stepKeepsInvariant : Obligations.StepKeepsInvariant :=
  fun _ _ h hstep => (StepEffect.of_step hstep).keeps_inv h

/-- Settles O48: the invariant of one fixed state, field by field. -/
theorem resetMeetsInvariant : Obligations.ResetMeetsInvariant := by
  unfold Obligations.ResetMeetsInvariant
  constructor <;> decide

end Sys2Proof.Machine
end

section
/-! What every transition but a reset keeps: the parameters (00_scope.md R6), the initialisation
flags (10_state.md R34), the TX FIFO's order (R47) and the sticky flags (R39). -/

namespace Sys2Proof.Machine

open Sys2Proof

/-- The TX FIFO has only grown at its end, or has lost its head to the bus. -/
def FifoKept (s t : State) : Prop :=
  (∃ new, t.blk.txq = s.blk.txq ++ new ∧ t.busLog = s.busLog) ∨
  ∃ f rest, s.blk.txq = f :: rest ∧ t.blk.txq = rest ∧ t.busLog = s.busLog ++ [busFrame f]

/-- The flags of status that were set are set still. -/
def StatusKept (s t : State) : Prop :=
  ∀ k, s.blk.status.getLsbD k = true → t.blk.status.getLsbD k = true

/-- What a transition from s to t keeps, where i is the command it runs, if it runs one. -/
structure Keeps (s : State) (i : Option Instr) (t : State) : Prop where
  params : t.params = s.params
  init : s.blk.init = true → t.blk.init = true
  rxqInit : s.blk.rxqInit = true → t.blk.rxqInit = true
  regInit : s.blk.regInit = true → t.blk.regInit = true
  fifo : FifoKept s t ∨ (t.blk.txq = [] ∧ t.busLog = s.busLog ∧
    ∃ dev rx tx fe, i = some (.canInit dev rx tx fe))
  status : ∀ k, s.blk.status.getLsbD k = true →
    t.blk.status.getLsbD k = true ∨ ∃ v, i = some (.csrWrite 0x01 v) ∧ v.getLsbD k = true

section Transition

variable {s t : State}

theorem FifoKept.of_eq (hq : t.blk.txq = s.blk.txq := by simp)
    (hl : t.busLog = s.busLog := by simp) : FifoKept s t :=
  .inl ⟨[], by rw [hq, List.append_nil], hl⟩

theorem StatusKept.of_eq (h : t.blk.status = s.blk.status := by simp) : StatusKept s t :=
  fun _ hk => h ▸ hk

theorem StatusKept.of_or {x : BitVec 6} (h : t.blk.status = s.blk.status ||| x) :
    StatusKept s t := by
  intro k hk
  rw [h, BitVec.getLsbD_or, hk, Bool.true_or]

theorem StatusKept.of_mark (b : StatusBit)
    (h : t.blk.status = markStatus s.blk.status b := by simp) : StatusKept s t :=
  .of_or h

/-- Most transitions change neither the parameters nor an initialisation flag. -/
theorem Keeps.of_flags_eq {i : Option Instr} (hf : FifoKept s t) (hs : StatusKept s t)
    (hp : t.params = s.params := by simp) (hi : t.blk.init = s.blk.init := by simp)
    (hq : t.blk.rxqInit = s.blk.rxqInit := by simp)
    (hr : t.blk.regInit = s.blk.regInit := by simp) : Keeps s i t :=
  ⟨hp, fun h => hi ▸ h, fun h => hq ▸ h, fun h => hr ▸ h, .inl hf, fun k hk => .inl (hs k hk)⟩

/-- What a transition keeps that leaves the TX FIFO, the bus and the sticky flags as they are. -/
theorem Keeps.of_flags_set {i : Option Instr} (hp : t.params = s.params := by simp)
    (hi : s.blk.init = true → t.blk.init = true := by simp)
    (hq : s.blk.rxqInit = true → t.blk.rxqInit = true := by simp)
    (hr : s.blk.regInit = true → t.blk.regInit = true := by simp)
    (hf : t.blk.txq = s.blk.txq := by simp) (hl : t.busLog = s.busLog := by simp)
    (hs : t.blk.status = s.blk.status := by simp) : Keeps s i t :=
  ⟨hp, hi, hq, hr, .inl (.of_eq hf hl), fun _ hk => .inl (hs ▸ hk)⟩

/-! ## The shared operations -/

theorem State.ackReply_keeps (s : State) (i : Option Instr) (f : Frame) (st : Byte) :
    Keeps s i (s.ackReply f st) := by
  obtain ⟨q, ev, m, e, hq, -, x, hm⟩ := s.ackReply_frame f st
  rw [e]
  refine .of_flags_eq (.inl ?_) (.of_or hm)
  obtain rfl | ⟨g, rfl⟩ := hq
  · exact ⟨[], (List.append_nil _).symm, rfl⟩
  · exact ⟨[g], rfl, rfl⟩

theorem State.txProcess_keeps (s : State) (i : Option Instr) : Keeps s i s.txProcess := by
  obtain ⟨-, e⟩ | ⟨f, rest, hq, ⟨-, e⟩ | ⟨-, e⟩⟩ := s.txProcess_cases <;> rw [e]
  · exact .of_flags_eq .of_eq .of_eq
  · refine .of_flags_eq (.inr ⟨f, rest, hq, ?_, rfl⟩) (.of_eq rfl) rfl rfl rfl rfl
    show s.blk.txq.tail = rest
    rw [hq, List.tail_cons]
  · obtain ⟨-, e⟩ | ⟨-, -, e⟩ := s.useAnswer.txRefused_cases <;> rw [e]
    · rw [State.evRaise_eq]
      exact .of_flags_eq .of_eq .of_eq
    · exact .of_flags_eq .of_eq (.of_mark .txStall)

theorem rxRaised_eq (p : State × Nat) : ∃ ev, rxRaised p = { p.1 with evq := ev } := by
  unfold rxRaised
  split
  · exact ⟨_, p.1.evRaise_eq _ _⟩
  · exact ⟨_, rfl⟩

theorem rxIrq_keeps (rs : List RxRecord) (s : State) (i : Option Instr) :
    Keeps s i (rxRaised (rs.foldl rxDeliver (s, 0))) := by
  obtain ⟨ev, e⟩ := rxRaised_eq (rs.foldl rxDeliver (s, 0))
  obtain ⟨xs, st, d, hfold, -, hst⟩ := rxDeliver_fold_frame rs s 0
  rw [e, hfold]
  refine .of_flags_eq .of_eq ?_
  obtain rfl | rfl := hst
  · exact .of_eq
  · exact .of_or rfl

/-! ## Commands -/

theorem csrOfNum_eq_status {n : Byte} (h : csrOfNum n = some .status) : n = 0x01 := by
  have hn : n.toNat ≤ 0x0E := by
    by_contra hbig
    rw [csrOfNum_eq_none (Nat.lt_of_not_le hbig)] at h
    cases h
  obtain ⟨c, hc, rfl⟩ := csrOfNum_assigned hn
  cases hc.symm.trans h
  rfl

theorem csrWritten_keeps {n : Byte} {v : Word} {c : Csr} {b : Block} (hn : csrOfNum n = some c)
    (hb : csrWritten s.blk v c = some b) : Keeps s (some (.csrWrite n v)) (s.withBlk b) := by
  cases c <;> cases hb
  case status =>
    refine ⟨rfl, id, id, id, .inl (.of_eq rfl rfl), fun k hk => ?_⟩
    have hlt : k < 6 := BitVec.lt_of_getLsbD hk
    obtain rfl := csrOfNum_eq_status hn
    by_cases hv : v.getLsbD k = true
    · exact .inr ⟨v, rfl, hv⟩
    · left
      rw [State.withBlk_blk, clearStatus_getLsbD _ _ hlt, hk, Bool.eq_false_iff.2 hv]
      rfl
  all_goals exact .of_flags_set

theorem CommandEffect.keeps {i : Instr} (heff : CommandEffect s i t) : Keeps s (some i) t := by
  cases heff with
  | refused n _ => cases i.port <;> exact .of_flags_set rfl id id id rfl rfl rfl
  | answered | pqInit | pqPush | pqPop | regInit | regDefault | regAdd | tickAnswered | tickBegun
  | rxEvent | ackCallbackReturned => exact .of_flags_set
  | canInit =>
    exact ⟨rfl, fun _ => rfl, id, id, .inr ⟨rfl, rfl, _, _, _, _, rfl⟩, fun _ hk => .inl hk⟩
  | transmit =>
    rw [State.openAck_txEnqueue]
    exact .of_flags_eq (.inl ⟨_, rfl, rfl⟩) .of_eq
  | txEvent =>
    exact { State.txProcess_keeps { s with blk.fsmState := .handlingTx } _ with }
  | handlerReturned => exact { s.leaveCallout.ackReply_keeps _ _ _ with }
  | csrWritten hn hb => exact { csrWritten_keeps hn hb with }
  | rxIrq => exact { rxIrq_keeps _ s _ with }
  | txReadyIrq =>
    rw [State.evRaise_eq]
    exact .of_flags_set

/-! ## Engine steps -/

theorem EngineEffect.keeps (heff : EngineEffect s t) : Keeps s none t := by
  cases heff with
  | rest | rxDone | ackResolved | handlerCalled | tickDone | tickExpiry => exact .of_flags_set
  | rxShort => exact .of_flags_eq .of_eq (.of_mark .rxShort)
  | rxForeign => exact .of_flags_eq .of_eq (.of_mark .rxInconsistent)
  | ackUnmatched => exact .of_flags_eq .of_eq (.of_mark .ackNomatch)
  | replied e _ _ _ => exact { s.takeServed.nextDraw.ackReply_keeps none e.frame 0x00 with }

/-! ## Steps -/

/-- The command a step runs comes from the words of a Host turn, unless it is one of the ISR port or
a forwarded event. -/
def RunsCommand (s : State) (i : Instr) : Prop :=
  i.opcode ∈ [.processEvent, .rxIrq, .txReadyIrq] ∨
  ∃ ws q, s.dueTurns = .host ws :: q ∧ decode .host ws = .ok i

theorem isr_runsCommand {ws : List Word} {i : Instr} (hi : decode .isr ws = .ok i) :
    RunsCommand s i := by
  obtain ⟨rs, rfl⟩ | rfl := decode_isr hi
  · exact .inl (by simp [Instr.opcode])
  · exact .inl (by simp [Instr.opcode])

theorem StepEffect.keeps (heff : StepEffect s t) (hreset : s.dueTurns.head? ≠ some .reset) :
    ∃ i, Keeps s i t ∧ ∀ j, i = some j → RunsCommand s j := by
  cases heff with
  | rest q _ _ => exact ⟨none, .of_flags_set, by simp⟩
  | engine q _ _ => exact ⟨none, { (engineStep_effect { s with turns := q }).keeps with }, by simp⟩
  | @host ws q i _ hdue _ hi hrun =>
    refine ⟨some i, { (CommandEffect.of_exec hrun).keeps with }, ?_⟩
    rintro _ ⟨⟩
    exact .inr ⟨ws, q, hdue, hi⟩
  | hostIllegal _ _ => exact ⟨none, .of_flags_set, by simp⟩
  | @isr _ _ i _ _ hi hrun =>
    refine ⟨some i, { (CommandEffect.of_exec hrun).keeps with }, ?_⟩
    rintro _ ⟨⟩
    exact isr_runsCommand hi
  | isrIllegal _ => exact ⟨none, .of_flags_set, by simp⟩
  | process _ _ => exact ⟨none, .of_flags_set, by simp⟩
  | @forward e _ _ _ _ _ hrun =>
    refine ⟨some (.processEvent e.id e.data), { (CommandEffect.of_exec hrun).keeps with }, ?_⟩
    rintro _ ⟨⟩
    exact .inl (by simp [Instr.opcode])
  | collaborator _ =>
    rw [State.evRaise_eq]
    exact ⟨none, .of_flags_set, by simp⟩
  | reset hdue => simp [hdue] at hreset

end Transition

/-! ## The obligations -/

theorem step_params {s t : State} (hstep : step s = .next t) : t.params = s.params := by
  by_cases hreset : s.dueTurns.head? = some .reset
  · obtain ⟨rest, hdue⟩ := List.head?_eq_some_iff.1 hreset
    rw [step_of_due_reset hdue] at hstep
    cases hstep
    rfl
  · obtain ⟨i, hkeeps, -⟩ := (StepEffect.of_step hstep).keeps hreset
    exact hkeeps.params

/-- Settles O50: no transition but a reset clears a flag, and none sets a parameter. -/
theorem initFlagsAndParametersPersist : Obligations.InitFlagsAndParametersPersist := by
  refine fun s t hstep => ⟨step_params hstep, fun hreset => ?_⟩
  obtain ⟨i, hkeeps, -⟩ := (StepEffect.of_step hstep).keeps hreset
  exact ⟨hkeeps.init, hkeeps.rxqInit, hkeeps.regInit⟩

/-- Settles O56: what empties the FIFO is a reset or a CAN_INIT, which only a Host turn carries. -/
theorem txFifoIsStrictlyFifo : Obligations.TxFifoIsStrictlyFifo := by
  intro s t hstep
  by_cases hreset : s.dueTurns.head? = some .reset
  · obtain ⟨rest, hdue⟩ := List.head?_eq_some_iff.1 hreset
    rw [step_of_due_reset hdue] at hstep
    cases hstep
    exact .inr (.inr ⟨rfl, rfl, .inl hreset⟩)
  obtain ⟨i, hkeeps, hruns⟩ := (StepEffect.of_step hstep).keeps hreset
  obtain (hgrown | hsent) | ⟨hq, hl, dev, rx, tx, fe, hi⟩ := hkeeps.fifo
  · exact .inl hgrown
  · exact .inr (.inl hsent)
  · obtain hop | ⟨ws, q, hdue, hdec⟩ := hruns _ hi
    · simp [Instr.opcode] at hop
    · exact .inr (.inr ⟨hq, hl, .inr ⟨ws, q, dev, rx, tx, fe, hdue, hdec⟩⟩)

/-- Settles O58: what clears a flag is a CSR_WRITE to STATUS, which only a Host turn carries. -/
theorem stickyFlagsStaySet : Obligations.StickyFlagsStaySet := by
  intro s t k hstep hreset hwrite hk
  obtain ⟨i, hkeeps, hruns⟩ := (StepEffect.of_step hstep).keeps hreset
  obtain hset | ⟨v, hi, hv⟩ := hkeeps.status k hk
  · exact hset
  · obtain hop | ⟨ws, q, hdue, hdec⟩ := hruns _ hi
    · simp [Instr.opcode] at hop
    · simp [hwrite ws v q hdue hdec] at hv

end Sys2Proof.Machine
end

section
/-! Engine steps and the host (45_rxtx.md R270, R271, R282; 44_ack.md R239; 70_reset_and_hazards.md
R392): what a step takes from the stores, when it answers, and when a batch reaches its response. -/

namespace Sys2Proof.Machine

open Sys2Proof

section Engine

variable {s t : State}

/-! ## The RX queue (R282, R177) -/

theorem takeServed_perm {e : QEntry} (he : sel s.blk.rxq = some e) :
    s.blk.rxq.Perm (e :: s.takeServed.blk.rxq) :=
  (sel_perm he).trans ((retie_perm _ _ _).symm.cons e)

theorem ackReply_rxq (u : State) (f : Frame) (st : Byte) :
    (u.ackReply f st).blk.rxq = u.blk.rxq := by
  obtain ⟨q, ev, m, e, -⟩ := u.ackReply_frame f st
  rw [e]

theorem EngineEffect.rxq (heff : EngineEffect s t) :
    t.blk.rxq = s.blk.rxq ∨ ∃ e, sel s.blk.rxq = some e ∧ s.blk.rxq.Perm (e :: t.blk.rxq) := by
  cases heff with
  | rest | rxDone | rxShort | tickDone | tickExpiry => exact .inl rfl
  | rxForeign e _ _ he => exact .inr ⟨e, he, takeServed_perm he⟩
  | ackUnmatched e _ _ he => exact .inr ⟨e, he, takeServed_perm he⟩
  | ackResolved e _ _ _ _ _ he _ => exact .inr ⟨e, he, takeServed_perm he⟩
  | handlerCalled e _ _ _ he => exact .inr ⟨e, he, takeServed_perm he⟩
  | replied e _ _ he =>
    rw [ackReply_rxq]
    exact .inr ⟨e, he, takeServed_perm he⟩

/-! ## Requests and their callouts (R239 item 1) -/

/-- The step takes no request and emits no CALLOUT_ACK. -/
structure TakesNoRequest (s t : State) : Prop where
  ack : t.blk.ack = s.blk.ack
  engExpired : t.blk.engExpired = s.blk.engExpired
  output : ∀ r, t.hostOut = s.hostOut ++ [r] → respKind r ≠ 0x02

/-- The step removes the request e from the table or from the batch, and its output is that
request's CALLOUT_ACK. -/
structure TakesRequest (s t : State) (e : AckEntry) : Prop where
  removed : (s.blk.ack.Perm (e :: t.blk.ack) ∧ t.blk.engExpired = s.blk.engExpired) ∨
    (t.blk.ack = s.blk.ack ∧ s.blk.engExpired = e :: t.blk.engExpired)
  output : ∃ c3 c4, t.hostOut = s.hostOut ++ [[0x02000000#32, e.cb, e.ctx, c3, c4]]

theorem TakesNoRequest.of_silent (ha : t.blk.ack = s.blk.ack)
    (hx : t.blk.engExpired = s.blk.engExpired) (ho : t.hostOut = s.hostOut) :
    TakesNoRequest s t :=
  ⟨ha, hx, fun r hr => by simp [ho] at hr⟩

theorem TakesNoRequest.of_output {ws : List Word} (ha : t.blk.ack = s.blk.ack)
    (hx : t.blk.engExpired = s.blk.engExpired) (ho : t.hostOut = s.hostOut ++ [ws])
    (hkind : respKind ws ≠ 0x02) : TakesNoRequest s t := by
  refine ⟨ha, hx, fun r hr => ?_⟩
  rw [ho, List.append_cancel_left_eq, List.singleton_inj] at hr
  exact hr ▸ hkind

theorem EngineEffect.request (heff : EngineEffect s t) :
    TakesNoRequest s t ∨ ∃ e, TakesRequest s t e := by
  cases heff with
  | rest | ackUnmatched => exact .inl (.of_silent rfl rfl rfl)
  | rxDone | rxShort | tickDone =>
    exact .inl (.of_output rfl rfl rfl (by rw [respKind_doneWords]; decide))
  | rxForeign =>
    exact .inl (.of_output (by simp) (by simp) (State.rxFinish_hostOut _)
      (by rw [respKind_doneWords]; decide))
  | handlerCalled =>
    exact .inl (.of_output rfl rfl rfl (by rw [respKind_calloutHandlerWords]; decide))
  | replied e =>
    obtain ⟨q, ev, m, he, -⟩ := s.takeServed.nextDraw.ackReply_frame e.frame 0x00
    rw [he]
    exact .inl (.of_silent rfl rfl rfl)
  | ackResolved e l r a _ _ _ ha =>
    exact .inr ⟨a, .inl ⟨ha ▸ List.perm_middle, rfl⟩, _, _, rfl⟩
  | tickExpiry a rest _ hx => exact .inr ⟨a, .inr ⟨rfl, hx⟩, _, _, rfl⟩

/-! ## When a step answers (R270) -/

/-- An RX batch goes on after a step: no output, one frame less to come. -/
structure BatchGoesOn (s t : State) : Prop where
  hostOut : t.hostOut = s.hostOut
  waiting : t.blk.hostWaiting = true
  modeBefore : s.blk.engMode = .rx
  mode : t.blk.engMode = .rx
  rem : t.blk.engRem.toNat + 1 = s.blk.engRem.toNat

/-- The step has answered the host, with the batch's response or with a callout. -/
def Answers (s t : State) : Prop :=
  (∃ r, t.hostOut = s.hostOut ++ [r]) ∧ t.blk.hostWaiting = false

theorem toNat_sub_one_add_one {n : Half} (h : n ≠ 0) : (n - 1).toNat + 1 = n.toNat := by
  bv_omega

theorem EngineEffect.answers (heff : EngineEffect s t) (hwait : s.blk.hostWaiting = true) :
    Answers s t ∨ BatchGoesOn s t := by
  obtain ⟨hbusy, hc⟩ := Block.hostWaiting_eq_true.1 hwait
  cases heff with
  | rest hm => exact absurd hm hbusy
  | rxDone | rxShort | rxForeign | tickDone => exact .inl ⟨⟨_, rfl⟩, rfl⟩
  | ackResolved | handlerCalled | tickExpiry =>
    exact .inl ⟨⟨_, rfl⟩, Bool.and_false _⟩
  | ackUnmatched e hm hr _ => exact .inr ⟨rfl, hwait, hm, hm, toNat_sub_one_add_one hr⟩
  | replied e hm hr _ =>
    obtain ⟨q, ev, m, he, -⟩ := s.takeServed.nextDraw.ackReply_frame e.frame 0x00
    rw [he]
    exact .inr ⟨rfl, hwait, hm, hm, toNat_sub_one_add_one hr⟩

theorem engineRun_succ (n : Nat) (hwait : s.blk.hostWaiting = true) :
    engineRun (n + 1) s = engineRun n (engineStep s) := by
  rw [engineRun, if_pos hwait]

/-- By induction on the frames an RX batch has still to come. -/
theorem rxBatch_answers {k : Nat} (hk : s.blk.engRem.toNat = k) (hwait : s.blk.hostWaiting = true)
    (hm : s.blk.engMode = .rx) :
    ∃ n, n ≤ k + 1 ∧ (engineRun n s).blk.hostWaiting = false ∧
      (engineRun n s).hostOut.length = s.hostOut.length + 1 := by
  induction k generalizing s with
  | zero =>
    obtain ⟨⟨r, ho⟩, hready⟩ | hon := (engineStep_effect s).answers hwait
    · refine ⟨1, le_rfl, ?_⟩
      rw [engineRun_succ 0 hwait, engineRun, ho]
      exact ⟨hready, by simp⟩
    · have hrem := hon.rem
      omega
  | succ k ih =>
    obtain ⟨⟨r, ho⟩, hready⟩ | hon := (engineStep_effect s).answers hwait
    · refine ⟨1, by omega, ?_⟩
      rw [engineRun_succ 0 hwait, engineRun, ho]
      exact ⟨hready, by simp⟩
    · have hrem := hon.rem
      obtain ⟨n, hn, hready, hlen⟩ := ih (by omega) hon.waiting hon.mode
      refine ⟨n + 1, by omega, ?_⟩
      rw [engineRun_succ n hwait]
      exact ⟨hready, hlen.trans (by rw [hon.hostOut])⟩

theorem tickBatch_answers (hwait : s.blk.hostWaiting = true) (hm : s.blk.engMode = .tick) :
    Answers s (engineStep s) := by
  obtain hans | hon := (engineStep_effect s).answers hwait
  · exact hans
  · cases hm.symm.trans hon.modeBefore

end Engine

/-! ## The obligations -/

/-- Settles O57: a step takes the entry that sel gives, and reorders what is left at most. -/
theorem engineTakesOnlyTheServedFrame : Obligations.EngineTakesOnlyTheServedFrame :=
  fun s => (engineStep_effect s).rxq

/-- Settles O30: of the ways an Engine step can go, two take a request, and they are the two that
call back. -/
theorem requestDeliveredAtMostOnce : Obligations.RequestDeliveredAtMostOnce := by
  intro s _
  obtain hnone | ⟨e, hremoved, c3, c4, ho⟩ := (engineStep_effect s).request
  · exact .inl ⟨hnone.ack, hnone.engExpired, hnone.output⟩
  · exact .inr ⟨e, c3, c4, hremoved, ho⟩

/-- Settles O59: a step that does not answer has taken one of the frames to come. -/
theorem batchReachesItsResponse : Obligations.BatchReachesItsResponse := by
  refine fun s hwait => ⟨rxBatch_answers rfl hwait, fun hm => ?_⟩
  obtain ⟨⟨r, ho⟩, hready⟩ := tickBatch_answers hwait hm
  exact ⟨hready, by rw [ho]; simp⟩

end Sys2Proof.Machine
end

section
/-! What a command answers (60_exceptions.md R341 to R346): a refusal without effect, one DONE of
status OK, or nothing where a batch then goes on. -/

namespace Sys2Proof.Machine

open Sys2Proof

/-- From s to t a port has emitted one response, and the other port none. -/
def Emits (p : Port) (r : List Word) (s t : State) : Prop :=
  match p with
  | .host => t.hostOut = s.hostOut ++ [r] ∧ t.isrOut = s.isrOut
  | .isr => t.isrOut = s.isrOut ++ [r] ∧ t.hostOut = s.hostOut

/-- Neither port has emitted anything. -/
def Silent (s t : State) : Prop := t.hostOut = s.hostOut ∧ t.isrOut = s.isrOut

/-- What a command answers: a refusal from a block that stays, an acceptance that leaves the Engine
as it is, or nothing, where it begins a batch or resumes one after a callout. -/
inductive CommandAnswer (s : State) (i : Instr) (t : State) : Prop
  | refused (st : Status) (n : Nat) (hst : st ∈ refusals i.opcode)
      (ht : t = ({ s with draws := n } : State).raiseOn i.port st)
  | accepted (v : Half) (ws : List Word) (hout : Emits i.port (doneWords .ok v ws) s t)
      (hm : t.blk.engMode = s.blk.engMode) (hc : t.blk.engCallout = s.blk.engCallout)
  | begun (hport : i.port = .host) (hout : Silent s t) (hbefore : s.blk.engCallout = .none)
      (hc : t.blk.engCallout = .none) (hm : t.blk.engMode ≠ .idle)
  | resumed (hop : i.opcode = .handlerReturn) (hout : Silent s t)
      (hbefore : s.blk.engCallout ≠ .none) (hc : t.blk.engCallout = .none)
      (hm : t.blk.engMode = s.blk.engMode)

section Command

variable {i : Instr} {s t : State} {p : Port} {r : List Word}

theorem txProcess_engine (u : State) :
    u.txProcess.hostOut = u.hostOut ∧ u.txProcess.isrOut = u.isrOut ∧
      u.txProcess.blk.engMode = u.blk.engMode ∧ u.txProcess.blk.engCallout = u.blk.engCallout := by
  obtain ⟨-, e⟩ | ⟨f, rest, hq, ⟨-, e⟩ | ⟨-, e⟩⟩ := u.txProcess_cases <;> rw [e]
  · exact ⟨rfl, rfl, rfl, rfl⟩
  · exact ⟨rfl, rfl, rfl, rfl⟩
  · obtain ⟨-, e⟩ | ⟨-, -, e⟩ := u.useAnswer.txRefused_cases <;> rw [e] <;> simp

theorem csrWritten_engine {b b' : Block} {v : Word} {c : Csr} (hb : csrWritten b v c = some b') :
    b'.engMode = b.engMode ∧ b'.engCallout = b.engCallout := by
  cases c <;> cases hb <;> exact ⟨rfl, rfl⟩

theorem CommandEffect.answer (heff : CommandEffect s i t) : CommandAnswer s i t := by
  cases heff with
  | refused n hst => exact .refused _ n hst rfl
  | answered n v ws hport => exact .accepted v ws (by rw [hport]; exact ⟨rfl, rfl⟩) rfl rfl
  | pqInit | pqPush | pqPop | regInit | regDefault | regAdd | tickAnswered | canInit =>
    exact .accepted _ _ ⟨rfl, rfl⟩ rfl rfl
  | tickBegun hc _ => exact .begun rfl ⟨rfl, rfl⟩ hc hc (by simp)
  | transmit =>
    rw [State.openAck_txEnqueue]
    exact .accepted _ _ ⟨rfl, rfl⟩ rfl rfl
  | rxEvent hc _ => exact .begun rfl ⟨rfl, rfl⟩ hc hc (by simp)
  | txEvent =>
    obtain ⟨ho, hisr, hm, hc⟩ := txProcess_engine { s with blk.fsmState := .handlingTx }
    exact .accepted _ _ ⟨congrArg (· ++ _) ho, hisr⟩ hm hc
  | @handlerReturned st _ hc =>
    obtain ⟨q, ev, m, e, -⟩ := s.leaveCallout.ackReply_frame s.blk.engCur st
    rw [e]
    exact .resumed rfl ⟨rfl, rfl⟩ (by simp [hc]) rfl rfl
  | ackCallbackReturned hc => exact .resumed rfl ⟨rfl, rfl⟩ (by simp [hc]) rfl rfl
  | csrWritten hn hb =>
    obtain ⟨hm, hc⟩ := csrWritten_engine hb
    exact .accepted _ _ ⟨rfl, rfl⟩ hm hc
  | @rxIrq rs hi hq =>
    obtain ⟨ev, e⟩ := rxRaised_eq (rs.foldl rxDeliver (s, 0))
    obtain ⟨xs, st, d, hfold, -⟩ := rxDeliver_fold_frame rs s 0
    rw [e, hfold]
    exact .accepted _ _ ⟨rfl, rfl⟩ rfl rfl
  | txReadyIrq _ =>
    rw [State.evRaise_eq]
    exact .accepted _ _ ⟨rfl, rfl⟩ rfl rfl

theorem CommandAnswer.of_exec (h : exec i s = .next t) : CommandAnswer s i t :=
  (CommandEffect.of_exec h).answer

theorem Emits.of_raiseOn (p : Port) (st : Status) (n : Nat) :
    Emits p (doneWords st 0 []) s (({ s with draws := n } : State).raiseOn p st) := by
  cases p <;> exact ⟨rfl, rfl⟩

/-- The response found on either port is the one emitted. -/
theorem Emits.response_eq {r' : List Word} (h : Emits p r s t)
    (h' : t.hostOut = s.hostOut ++ [r'] ∨ t.isrOut = s.isrOut ++ [r']) : r' = r := by
  cases p <;> obtain ⟨hown, hother⟩ := h <;> simp_all

theorem Silent.no_response (h : Silent s t) :
    ¬(t.hostOut = s.hostOut ++ [r] ∨ t.isrOut = s.isrOut ++ [r]) := by
  obtain ⟨hh, hi⟩ := h
  simp [hh, hi]

/-- A response of status OK, or of a status the command refuses with, from a block that stays. -/
theorem response_of_exec (h : exec i s = .next t)
    (hr : t.hostOut = s.hostOut ++ [r] ∨ t.isrOut = s.isrOut ++ [r]) :
    (∃ v ws, r = doneWords .ok v ws) ∨
    ∃ st n, st ∈ refusals i.opcode ∧ r = doneWords st 0 [] ∧
      t = ({ s with draws := n } : State).raiseOn i.port st := by
  obtain ⟨st, n, hst, rfl⟩ | ⟨v, ws, hout, -, -⟩ | ⟨-, hout, -, -, -⟩ | ⟨-, hout, -, -, -⟩ :=
    CommandAnswer.of_exec h
  · exact .inr ⟨st, n, hst, (Emits.of_raiseOn _ _ _).response_eq hr, rfl⟩
  · exact .inl ⟨v, ws, hout.response_eq hr⟩
  · exact absurd hr hout.no_response
  · exact absurd hr hout.no_response

/-! ## Statuses -/

theorem Status.code_injective {a b : Status} (h : a.code = b.code) : a = b := by
  revert h
  cases a <;> cases b <;> decide

/-- A status other than OK that a response carries is one its command refuses with. -/
theorem refusals_of_response {st : Status} (h : exec i s = .next t)
    (hr : t.hostOut = s.hostOut ++ [r] ∨ t.isrOut = s.isrOut ++ [r]) (hne : st ≠ .ok)
    (hst : respStatus r = st.code) : st ∈ refusals i.opcode := by
  obtain ⟨v, ws, rfl⟩ | ⟨st', n, hmem, rfl, -⟩ := response_of_exec h hr
  · rw [respStatus_doneWords] at hst
    exact absurd (Status.code_injective hst).symm hne
  · rw [respStatus_doneWords] at hst
    exact Status.code_injective hst ▸ hmem

end Command

/-! ## Refusals have no effect (R341) -/

/-- Settles O52: a response of another status than OK is a refusal, and that leaves the block, the
event queue, the bus log and the answers to come alone. -/
theorem failedCommandHasNoEffect : Obligations.FailedCommandHasNoEffect := by
  intro i s t r h hr hst
  have hany : t.hostOut = s.hostOut ++ [r] ∨ t.isrOut = s.isrOut ++ [r] :=
    hr.imp (fun hh => hh.1) fun hi => hi.1
  obtain ⟨v, ws, rfl⟩ | ⟨st, n, -, rfl, rfl⟩ := response_of_exec h hany
  · rw [respStatus_doneWords] at hst
    exact absurd rfl hst
  · cases i.port <;> exact ⟨rfl, rfl, rfl, rfl, rfl⟩

/-! ## Busy and Uninitialized (R342, R344) -/

theorem exec_of_callout {i : Instr} {s : State} (hc : s.blk.engCallout ≠ .none)
    (hi : i.opcode ∈ [.processEvent, .ackTick, .canInit, .pqInit, .regInit]) :
    exec i s = .next (s.doneHost .busy 0 []) := by
  cases i
  case processEvent e d => exact if_pos hc
  case ackTick => exact execAckTick_of_callout hc
  case canInit dev rx tx fe => exact execCanInit_of_callout hc dev rx tx fe
  case pqInit n k => exact execPqInit_of_callout hc n k
  case regInit c => exact execRegInit_of_callout hc c
  all_goals simp [Instr.opcode] at hi

theorem busy_mem_refusals {op : Opcode} (h : Status.busy ∈ refusals op) :
    op ∈ [.processEvent, .ackTick, .canInit, .pqInit, .regInit] := by
  revert h
  cases op <;> decide

/-- Settles O43: the five commands check for a callout first, and no other command refuses with
Busy. -/
theorem busyWhileCalloutOutstanding : Obligations.BusyWhileCalloutOutstanding := by
  refine fun s hc => ⟨fun i hi => exec_of_callout hc hi, fun i t r hi h hr hst => ?_⟩
  exact hi (busy_mem_refusals (refusals_of_response (st := .busy) h hr (by simp) hst))

theorem exec_of_rxqUninit {i : Instr} {s : State} (hq : s.blk.rxqInit = false)
    (hi : i.opcode ∈ [.pqPush, .pqPop, .pqPeek, .pqSize]) :
    exec i s = .next (s.doneHost .uninitialized 0 []) := by
  cases i
  case pqPush | pqPop | pqPeek | pqSize => exact if_pos hq
  all_goals simp [Instr.opcode] at hi

theorem exec_of_regUninit {i : Instr} {s : State} (hq : s.blk.regInit = false)
    (hi : i.opcode ∈ [.regDefault, .regAdd, .regLookup]) :
    exec i s = .next (s.doneHost .uninitialized 0 []) := by
  cases i
  case regDefault | regAdd | regLookup => exact if_pos hq
  all_goals simp [Instr.opcode] at hi

theorem exec_transmit_of_uninit {i : Instr} {s : State} (hinit : s.blk.init = false)
    (hi : i.opcode = .transmit) : exec i s = .next (s.doneHost .uninitialized 0 []) := by
  cases i
  case transmit => exact if_pos hinit
  all_goals simp [Instr.opcode] at hi

theorem exec_batch_of_uninit {i : Instr} {s : State} (hinit : s.blk.init = false)
    (hc : s.blk.engCallout = .none) (hi : i.opcode ∈ [.processEvent, .ackTick]) :
    exec i s = .next (s.doneHost .uninitialized 0 []) := by
  cases i
  case processEvent e d => exact execProcessEvent_of_uninit hc hinit e d
  case ackTick => exact execAckTick_of_uninit hc hinit
  all_goals simp [Instr.opcode] at hi

theorem execRxIrq_of_uninit {rs : List RxRecord} {s : State}
    (hinit : s.blk.init = false ∨ s.blk.rxqInit = false) (hrs : ∀ r ∈ rs, r.dlc.toNat ≤ 8) :
    execRxIrq rs s = .next (s.doneIsr .uninitialized 0) := by
  have hshort : ¬ rs.any (fun r => decide (r.dlc.toNat > 8)) = true := by simpa using hrs
  rw [execRxIrq, if_neg hshort, if_pos hinit]
  rfl

theorem uninitialized_not_mem_refusals {op : Opcode}
    (hop : op ∈ [.idEncode, .idDecode, .packU8, .packU16, .packU32, .packU64, .pqInit, .regInit,
      .canInit, .handlerReturn, .csrRead, .csrWrite]) : Status.uninitialized ∉ refusals op := by
  revert hop
  cases op <;> decide

/-- Settles O44: each gated command checks its flag before it does anything, and the others do not
refuse with Uninitialized. -/
theorem uninitializedGating : Obligations.UninitializedGating := by
  refine fun i s => ⟨exec_transmit_of_uninit, exec_batch_of_uninit, ?_, ?_, exec_of_rxqUninit,
    exec_of_regUninit, fun hop t r h hr hst => ?_⟩
  · rintro hinit rs rfl hrs
    exact execRxIrq_of_uninit hinit hrs
  · rintro hinit rfl
    exact if_pos hinit
  · exact uninitialized_not_mem_refusals hop
      (refusals_of_response (st := .uninitialized) h (.inl hr) (by simp) hst)

end Sys2Proof.Machine
end

section
/-! Responses and callouts over a step (45_rxtx.md R270; 60_exceptions.md R346, R359, R360): one
response for each host command, and a callout that only HANDLER_RETURN or a reset ends. -/

namespace Sys2Proof.Machine

open Sys2Proof

/-! ## The responses owed (R270, R359) -/

section Owed

variable {i : Instr} {s t : State}

theorem owed_of_ready (h : s.blk.hostWaiting = false) : owed s = 0 := by
  simp [owed, h]

theorem owed_of_waiting (h : s.blk.hostWaiting = true) : owed s = 1 := by
  simp [owed, h]

theorem hostWaiting_congr {b b' : Block} (hm : b'.engMode = b.engMode)
    (hc : b'.engCallout = b.engCallout) : b'.hostWaiting = b.hostWaiting := by
  simp only [Block.hostWaiting, hm, hc]

theorem owed_congr (hm : t.blk.engMode = s.blk.engMode)
    (hc : t.blk.engCallout = s.blk.engCallout) : owed t = owed s := by
  rw [owed, owed, hostWaiting_congr hm hc]

/-- A command that a ready host port takes is answered, or its answer is owed. -/
theorem hostCommand_balance (h : Inv s) (hready : s.blk.hostWaiting = false)
    (hport : i.port = .host) (hrun : exec i s = .next t) :
    t.hostOut.length + owed t = s.hostOut.length + 1 := by
  obtain ⟨st, n, -, rfl⟩ | ⟨v, ws, hout, hm, hc⟩ | ⟨-, hout, -, hc, hm⟩ |
    ⟨-, hout, hbefore, hc, hm⟩ := CommandAnswer.of_exec hrun
  · rw [hport]
    have hnone : owed ((({ s with draws := n } : State)).raiseOn .host st) = 0 :=
      owed_of_ready hready
    rw [hnone]
    simp [State.raiseOn]
  · rw [hport] at hout
    rw [owed_congr hm hc, owed_of_ready hready, hout.1]
    simp
  · rw [owed_of_waiting (Block.hostWaiting_eq_true.2 ⟨hm, hc⟩), hout.1]
  · have hbatch : t.blk.engMode ≠ .idle := hm ▸ h.calloutInBatch hbefore
    rw [owed_of_waiting (Block.hostWaiting_eq_true.2 ⟨hbatch, hc⟩), hout.1]

/-- A command of the ISR port answers there and leaves what the host is owed (R87, R347). -/
theorem isrCommand_balance (hport : i.port = .isr) (hrun : exec i s = .next t) :
    t.hostOut = s.hostOut ∧ owed t = owed s := by
  obtain ⟨st, n, -, rfl⟩ | ⟨v, ws, hout, hm, hc⟩ | ⟨hhost, -⟩ | ⟨hop, -⟩ :=
    CommandAnswer.of_exec hrun
  · rw [hport]
    exact ⟨rfl, rfl⟩
  · rw [hport] at hout
    exact ⟨hout.2, owed_congr hm hc⟩
  · cases hport.symm.trans hhost
  · rw [Instr.port, hop] at hport
    cases hport

/-- A turn that takes no host command, answers nothing there and leaves the Engine as it is. -/
theorem balance_of_same (hnone : hostCommandTaken s = false) (hout : t.hostOut = s.hostOut)
    (howed : owed t = owed s) :
    t.hostOut.length + owed t = s.hostOut.length + owed s +
      (if hostCommandTaken s then 1 else 0) := by
  rw [hnone, hout, howed]
  rfl

/-- An Engine step answers, or still owes the answer it owed. -/
theorem engineStep_balance (hwait : s.blk.hostWaiting = true) :
    (engineStep s).hostOut.length + owed (engineStep s) = s.hostOut.length + owed s := by
  rw [owed_of_waiting hwait]
  obtain ⟨⟨r, ho⟩, hready⟩ | hon := (engineStep_effect s).answers hwait
  · rw [owed_of_ready hready, ho]
    simp
  · rw [owed_of_waiting hon.waiting, hon.hostOut]

/-- The balance of a step (R359). -/
theorem StepEffect.balance (heff : StepEffect s t) (h : Inv s)
    (hreset : s.dueTurns.head? ≠ some .reset) :
    t.hostOut.length + owed t = s.hostOut.length + owed s +
      (if hostCommandTaken s then 1 else 0) := by
  have hturns : ∀ q, Inv { s with turns := q } := fun q => h.of_eq rfl rfl rfl rfl
  cases heff with
  | rest q _ hnone => exact balance_of_same hnone rfl rfl
  | engine q _ hwait =>
    rw [hostCommandTaken_of_waiting hwait]
    exact engineStep_balance (s := { s with turns := q }) hwait
  | @host ws q i _ hdue hready hi hrun =>
    obtain ⟨-, hport, -⟩ := encode_of_decode hi
    have htaken : hostCommandTaken s = true := by simp [hostCommandTaken, hready, hdue]
    rw [htaken, owed_of_ready hready]
    exact hostCommand_balance (s := { s with turns := q }) (hturns q) hready hport hrun
  | @hostIllegal ws q hdue hready =>
    have htaken : hostCommandTaken s = true := by simp [hostCommandTaken, hready, hdue]
    simp [htaken, owed, hready]
  | @isr ws q i _ hdue hi hrun =>
    obtain ⟨-, hport, -⟩ := encode_of_decode hi
    obtain ⟨hout, howed⟩ := isrCommand_balance hport hrun
    exact balance_of_same (by simp [hostCommandTaken, hdue]) hout howed
  | isrIllegal hdue => exact balance_of_same (by simp [hostCommandTaken, hdue]) rfl rfl
  | process hdue _ => exact balance_of_same (by simp [hostCommandTaken, hdue]) rfl rfl
  | @forward e q _ hdue hready htaken hrun =>
    have hcommand : hostCommandTaken s = true := by simp [hostCommandTaken, hready, hdue, htaken]
    rw [hcommand, owed_of_ready hready]
    exact hostCommand_balance (s := { s with turns := q, taken := none })
      (h.of_eq rfl rfl rfl rfl) hready rfl hrun
  | collaborator hdue =>
    exact balance_of_same (by simp [hostCommandTaken, hdue]) (by simp)
      (owed_congr (by simp) (by simp))
  | reset hdue => simp [hdue] at hreset

end Owed

/-- Settles O53: a command taken on the host port adds one to what has been answered and what is
owed, an Engine step moves one from the latter to the former, and no other turn changes either. -/
theorem oneResponsePerHostCommand : Obligations.OneResponsePerHostCommand :=
  fun _ _ h hstep hreset => (StepEffect.of_step hstep).balance h hreset

/-! ## Callouts (R346) -/

theorem CommandAnswer.hostOut {i : Instr} {s t : State} (h : CommandAnswer s i t) :
    t.hostOut = s.hostOut ∨ ∃ r, t.hostOut = s.hostOut ++ [r] ∧ respKind r = 0x00 := by
  obtain ⟨st, n, -, rfl⟩ | ⟨v, ws, hout, -, -⟩ | ⟨-, hout, -, -, -⟩ | ⟨-, hout, -, -, -⟩ := h
  · cases i.port
    · exact .inr ⟨_, rfl, respKind_doneWords _ _ _⟩
    · exact .inl rfl
  · cases hport : i.port <;> rw [hport] at hout
    · exact .inr ⟨_, hout.1, respKind_doneWords _ _ _⟩
    · exact .inl hout.2
  · exact .inl hout.1
  · exact .inl hout.1

theorem CommandAnswer.engCallout {i : Instr} {s t : State} (h : CommandAnswer s i t) :
    t.blk.engCallout = s.blk.engCallout ∨
      (i.opcode = .handlerReturn ∧ t.blk.engCallout = .none) := by
  obtain ⟨st, n, -, rfl⟩ | ⟨v, ws, -, -, hc⟩ | ⟨-, -, hbefore, hc, -⟩ | ⟨hop, -, -, hc, -⟩ := h
  · cases i.port <;> exact .inl rfl
  · exact .inl hc
  · exact .inl (hc.trans hbefore.symm)
  · exact .inr ⟨hop, hc⟩

/-! ## A block that stays stuck (R360) -/

/-- What a step leaves of the turns to come is among them. -/
theorem State.Leaves.subset {s : State} {q : List Turn} (h : s.Leaves q) :
    ∀ u ∈ q, u ∈ s.turns ++ s.turnCycle := by
  intro u hu
  obtain rfl | ⟨v, hdue⟩ := h
  · exact List.mem_append_left _ hu
  · exact State.mem_of_mem_dueTurns (hdue ▸ List.mem_cons_of_mem v hu)

theorem State.Leaves.of_due {s : State} {v : Turn} {q : List Turn} (h : s.dueTurns = v :: q) :
    s.Leaves q :=
  .inr ⟨v, h⟩

theorem engineStep_turns (s : State) :
    (engineStep s).turns = s.turns ∧ (engineStep s).turnCycle = s.turnCycle := by
  have heff := engineStep_effect s
  generalize engineStep s = t at heff
  cases heff with
  | replied e => exact ackReply_turns s.takeServed.nextDraw e.frame 0x00
  | rest | rxDone | rxShort | rxForeign | ackUnmatched | ackResolved | handlerCalled | tickDone
  | tickExpiry => simp

/-- The turns after a step: what was left of those listed, over the same cycle. -/
theorem StepEffect.turns {s t : State} (heff : StepEffect s t) :
    s.Leaves t.turns ∧ t.turnCycle = s.turnCycle := by
  cases heff with
  | rest q hq _ => exact ⟨hq, rfl⟩
  | engine q hq _ =>
    obtain ⟨h, hcycle⟩ := engineStep_turns { s with turns := q }
    exact ⟨h ▸ hq, hcycle⟩
  | host hdue _ _ hrun =>
    obtain ⟨h, hcycle⟩ := exec_turns _ hrun
    exact ⟨.of_due (hdue.trans (congrArg _ h.symm)), hcycle⟩
  | hostIllegal hdue _ => exact ⟨.of_due hdue, rfl⟩
  | isr hdue _ hrun =>
    obtain ⟨h, hcycle⟩ := exec_turns _ hrun
    exact ⟨.of_due (hdue.trans (congrArg _ h.symm)), hcycle⟩
  | isrIllegal hdue => exact ⟨.of_due hdue, rfl⟩
  | process hdue _ => exact ⟨.of_due hdue, rfl⟩
  | forward hdue _ _ hrun =>
    obtain ⟨h, hcycle⟩ := exec_turns _ hrun
    exact ⟨.of_due (hdue.trans (congrArg _ h.symm)), hcycle⟩
  | collaborator hdue =>
    rw [State.evRaise_turns, State.evRaise_turnCycle]
    exact ⟨.of_due hdue, rfl⟩
  | reset hdue => exact ⟨.of_due hdue, rfl⟩

/-- A turn that can end a callout is neither a reset nor a HANDLER_RETURN. -/
def NeverAnswers (u : Turn) : Prop :=
  u ≠ .reset ∧ ∀ ws st r, u = .host ws → decode .host ws ≠ .ok (.handlerReturn st r)

/-- A callout is outstanding and no turn to come ends it. -/
def Unanswered (s : State) : Prop :=
  s.blk.engCallout ≠ .none ∧ ∀ u ∈ s.turns ++ s.turnCycle, NeverAnswers u

theorem Instr.eq_handlerReturn {i : Instr} (h : i.opcode = .handlerReturn) :
    ∃ st r, i = .handlerReturn st r := by
  cases i
  case handlerReturn st r => exact ⟨st, r, rfl⟩
  all_goals simp [Instr.opcode] at h

theorem StepEffect.keeps_callout {s t : State} (heff : StepEffect s t) (h : Unanswered s) :
    t.blk.engCallout ≠ .none := by
  obtain ⟨hc, hturns⟩ := h
  have hdueTurns : ∀ {u q}, s.dueTurns = u :: q → NeverAnswers u := fun hdue =>
    hturns _ (State.mem_of_mem_dueTurns (by simp [hdue]))
  cases heff with
  | rest | hostIllegal | isrIllegal | process => exact hc
  | engine q _ hwait => exact absurd (Block.hostWaiting_eq_true.1 hwait).2 hc
  | host hdue _ hi hrun =>
    obtain hsame | ⟨hop, -⟩ := (CommandAnswer.of_exec hrun).engCallout
    · exact hsame ▸ hc
    · obtain ⟨st, r, rfl⟩ := Instr.eq_handlerReturn hop
      exact absurd hi ((hdueTurns hdue).2 _ st r rfl)
  | isr hdue hi hrun =>
    obtain hsame | ⟨hop, -⟩ := (CommandAnswer.of_exec hrun).engCallout
    · exact hsame ▸ hc
    · obtain ⟨rs, rfl⟩ | rfl := decode_isr hi <;> cases hop
  | forward _ _ _ hrun =>
    obtain hsame | ⟨hop, -⟩ := (CommandAnswer.of_exec hrun).engCallout
    · exact hsame ▸ hc
    · cases hop
  | collaborator => simpa using hc
  | reset hdue => exact absurd rfl (hdueTurns hdue).1

theorem Unanswered.step {s t : State} (h : Unanswered s) (hstep : step s = .next t) :
    Unanswered t := by
  have heff := StepEffect.of_step hstep
  refine ⟨heff.keeps_callout h, fun u hu => ?_⟩
  obtain ⟨hleft, hcycle⟩ := heff.turns
  obtain hu | hu := List.mem_append.1 hu
  · exact h.2 u (hleft.subset u hu)
  · exact h.2 u (List.mem_append_right _ (hcycle ▸ hu))

theorem Unanswered.stuck {s : State} (h : Unanswered s) : StuckOnHost s :=
  fun _ _ hrun => (runSteps_invariant (fun _ _ => Unanswered.step) h hrun).1

/-- A step that ends a callout shows that the block was not stuck. -/
theorem not_stuck_of_step {s t : State} (hstep : step s = .next t)
    (hc : t.blk.engCallout = .none) : ¬ StuckOnHost s := by
  intro hstuck
  refine hstuck 1 t ?_ hc
  rw [runSteps, hstep]
  rfl

theorem exec_handlerReturn_ends {s : State} (hc : s.blk.engCallout ≠ .none) (st : Byte)
    (r : Half) : ∃ t, exec (.handlerReturn st r) s = .next t ∧ t.blk.engCallout = .none := by
  cases hk : s.blk.engCallout with
  | none => exact absurd hk hc
  | handler =>
    refine ⟨_, execHandlerReturn_of_handler hk st r, ?_⟩
    obtain ⟨q, ev, m, e, -⟩ := s.leaveCallout.ackReply_frame s.blk.engCur st
    rw [e]
    rfl
  | ackCb => exact ⟨_, execHandlerReturn_of_ack_callback hk st r, rfl⟩

theorem not_stuck_of_due_handlerReturn {s : State} {ws : List Word} {rest : List Turn} {st : Byte}
    {r : Half} (hdue : s.dueTurns = .host ws :: rest)
    (hi : decode .host ws = .ok (.handlerReturn st r)) : ¬ StuckOnHost s := by
  by_cases hc : s.blk.engCallout = .none
  · exact fun hstuck => hstuck 0 s rfl hc
  · have hready : s.blk.hostWaiting = false := by simp [Block.hostWaiting, hc]
    obtain ⟨t, ht, hended⟩ := exec_handlerReturn_ends (s := { s with turns := rest }) hc st r
    refine not_stuck_of_step ?_ hended
    rw [step_of_due_host hdue hready, runCommand_of_decode hi, ht]

/-- Settles O54: commands answer DONE or nothing and only HANDLER_RETURN ends a callout; so a run
whose turns hold neither it nor a reset keeps the callout, by induction on its length. -/
theorem commandsNeverCallOut : Obligations.CommandsNeverCallOut :=
  ⟨fun _ _ _ h => ⟨(CommandAnswer.of_exec h).hostOut, (CommandAnswer.of_exec h).engCallout⟩,
    fun _ hc hturns => Unanswered.stuck ⟨hc, hturns⟩,
    fun _ _ _ _ _ => not_stuck_of_due_handlerReturn,
    fun _ _ hdue => not_stuck_of_step (step_of_due_reset hdue) rfl⟩

end Sys2Proof.Machine
end

section
/-! The priority queue over several commands (42_pqueue.md R172, R176) and the lookup of distinct
ids (43_dispatch.md R206). -/

namespace Sys2Proof.Machine

open Sys2Proof

/-! ## Draining a queue under Stable (R172) -/

theorem drain_succ_of_sel {xs : List QEntry} {e : QEntry} (he : sel xs = some e) (n : Nat) :
    drain (n + 1) xs = e :: drain n (withoutSel xs) := by
  rw [drain, he]

/-- Entries of other keys than the served one's stand in front of it, so within its key it is the
first, and without it the other keys are as they were. -/
theorem sel_filter_key {xs : List QEntry} {e : QEntry} (he : sel xs = some e) (k : Half) :
    xs.filter (fun x => x.key = k) =
      (if e.key = k then [e] else []) ++ (withoutSel xs).filter (fun x => x.key = k) := by
  obtain ⟨l, r, hxs, hrest, hbefore, -⟩ := sel_first_least he
  rw [hrest, hxs]
  by_cases hk : e.key = k
  · have hl : l.filter (fun x => x.key = k) = [] := by
      refine List.filter_eq_nil_iff.2 fun x hx hxk => ?_
      have hlt := hbefore x hx
      rw [hk, of_decide_eq_true hxk] at hlt
      exact lt_irrefl _ hlt
    simp [hl, hk]
  · simp [hk]

theorem sel_least {xs : List QEntry} {e : QEntry} (he : sel xs = some e) :
    ∀ x ∈ xs, e.key.toNat ≤ x.key.toNat := by
  obtain ⟨l, r, -, -, -, hleast⟩ := sel_split he
  exact hleast

/-- Repeated pops serve every entry once, by ascending key, and in list order within a key: by
induction on the length, one pop at a time. -/
theorem drain_spec {n : Nat} {xs : List QEntry} (hn : xs.length = n) :
    (drain n xs).Perm xs ∧ (drain n xs).Pairwise (fun a b => a.key.toNat ≤ b.key.toNat) ∧
      ∀ k : Half, (drain n xs).filter (fun e => e.key = k) = xs.filter (fun e => e.key = k) := by
  induction n generalizing xs with
  | zero =>
    rw [List.length_eq_zero_iff.1 hn, drain]
    exact ⟨.refl _, .nil, fun _ => rfl⟩
  | succ n ih =>
    obtain ⟨e, he⟩ := sel_isSome (xs := xs) (by rintro rfl; cases hn)
    have hlen := withoutSel_length he
    obtain ⟨hperm, hsorted, hkey⟩ := ih (xs := withoutSel xs) (by omega)
    rw [drain_succ_of_sel he]
    refine ⟨(hperm.cons e).trans (sel_perm he).symm, .cons (fun x hx => ?_) hsorted, fun k => ?_⟩
    · exact sel_least he x ((sel_perm he).mem_iff.2 (.tail _ (hperm.mem_iff.1 hx)))
    · rw [sel_filter_key he k, ← hkey k]
      by_cases hk : e.key = k <;> simp [hk]

/-- Settles O20: each pop takes the first entry of least key and leaves the rest in order. -/
theorem stableServiceOrder : Obligations.StableServiceOrder := fun _ => drain_spec rfl

/-! ## Filling a queue (R176) -/

/-- A push into a queue with room answers OK and takes one place. -/
theorem pqPush_takes_place {s : State} (hi : s.blk.rxqInit = true)
    (hroom : s.blk.rxq.length < s.blk.rxqCap.toNat) (prio : Half) (f : Frame) :
    ∃ t, exec (.pqPush prio f) s = .next t ∧ t.hostOut = s.hostOut ++ [[0x00000000#32]] ∧
      t.blk.rxqInit = true ∧ t.blk.rxqCap = s.blk.rxqCap ∧
      t.blk.rxq.length = s.blk.rxq.length + 1 :=
  ⟨_, execPqPush_of_room hi (Nat.ne_of_lt hroom) prio f, rfl, hi, rfl, by simp⟩

/-- Pushes as many as there is room for all answer OK: by induction on the frames. -/
theorem pqPushes_fill {s : State} (ps : List (Half × Frame)) (hi : s.blk.rxqInit = true)
    (hroom : s.blk.rxq.length + ps.length = s.blk.rxqCap.toNat) :
    ∃ t, execAll (ps.map fun q => .pqPush q.1 q.2) s = some t ∧
      t.hostOut = s.hostOut ++ List.replicate ps.length [0x00000000#32] ∧
      t.blk.rxqInit = true ∧ t.blk.rxqCap = s.blk.rxqCap ∧
      t.blk.rxq.length = s.blk.rxqCap.toNat := by
  induction ps generalizing s with
  | nil => exact ⟨s, rfl, (List.append_nil _).symm, hi, rfl, hroom⟩
  | cons p ps ih =>
    rw [List.length_cons] at hroom
    obtain ⟨u, hu, hout, hinit, hcap, hlen⟩ :=
      pqPush_takes_place hi (by omega : s.blk.rxq.length < _) p.1 p.2
    obtain ⟨t, ht, htout, htinit, htcap, htlen⟩ := ih hinit (by rw [hcap]; omega)
    refine ⟨t, ?_, ?_, htinit, htcap.trans hcap, hcap ▸ htlen⟩
    · rw [List.map_cons, execAll, hu]
      exact ht
    · rw [htout, hout, List.append_assoc]
      rfl

/-- A pop from a queue that holds something gives one place back. -/
theorem pqPop_gives_place {s : State} (hi : s.blk.rxqInit = true) (hq : s.blk.rxq ≠ []) :
    ∃ t, exec .pqPop s = .next t ∧ t.blk.rxqInit = true ∧ t.blk.rxqCap = s.blk.rxqCap ∧
      t.blk.rxq.length + 1 = s.blk.rxq.length := by
  obtain ⟨e, he⟩ := sel_isSome hq
  exact ⟨_, execPqPop_of_sel hi he, hi, rfl, by simpa using withoutSel_length he⟩

/-- Settles O21: each push takes one place until none is left, and the pop gives one back. -/
theorem queueHoldsExactlyItsCapacity : Obligations.QueueHoldsExactlyItsCapacity := by
  intro s ps p hi hne hroom
  obtain ⟨t, ht, htout, htinit, htcap, htlen⟩ := pqPushes_fill ps hi hroom
  have hpos : 0 < t.blk.rxq.length := by
    have := List.length_pos_iff.2 hne
    omega
  obtain ⟨u, hu, huinit, hucap, hulen⟩ := pqPop_gives_place htinit (List.length_pos_iff.1 hpos)
  have hcap : u.blk.rxqCap.toNat = s.blk.rxqCap.toNat := by rw [hucap, htcap]
  obtain ⟨v, hv, hvout, -, -, hvlen⟩ :=
    pqPush_takes_place huinit (by omega : u.blk.rxq.length < _) p.1 p.2
  exact ⟨t, u, v, ht, htout, execPqPush_of_full htinit (htcap ▸ htlen) p.1 p.2, hu, hv, hvout,
    by omega⟩

/-! ## Distinct ids (R206, R203) -/

/-- Settles O25: the lookup hits an entry with the id asked for, and only one has it. -/
theorem distinctIdsAreFound : Obligations.DistinctIdsAreFound := by
  intro dup draw reg hdistinct e he
  obtain ⟨e', hfound⟩ := findReg_isSome_of_mem dup draw ⟨e, he, rfl⟩
  obtain ⟨he', hid⟩ := findReg_mem hfound
  have : Std.Symm fun a b : RegEntry => a.msgId ≠ b.msgId := ⟨fun _ _ => Ne.symm⟩
  have hsame : e' = e := by
    by_contra hne
    exact hdistinct.forall he' he hne hid
  rw [hfound, hsame]

end Sys2Proof.Machine
end

section
/-! The derived length of a payload (41_codec.md R143) and the frame of a received record
(45_rxtx.md R280). -/

namespace Sys2Proof.Machine

open Sys2Proof

/-! ## The lowest and the highest set bit (R143, 00_scope.md R11) -/

theorem find?_reverse_range {p : Nat → Bool} {i n : Nat} (hi : i < n) (hp : p i = true)
    (hgreatest : ∀ j, i < j → j < n → p j = false) :
    (List.range n).reverse.find? p = some i := by
  induction n with
  | zero => exact absurd hi (Nat.not_lt_zero i)
  | succ n ih =>
    rw [List.range_succ, List.reverse_append, List.reverse_singleton, List.singleton_append]
    obtain rfl | hlt := Nat.eq_or_lt_of_le (Nat.le_of_lt_succ hi)
    · exact List.find?_cons_of_pos hp
    · rw [List.find?_cons_of_neg (by simp [hgreatest n hlt (Nat.lt_succ_self n)])]
      exact ih hlt fun j hij hj => hgreatest j hij (Nat.lt_succ_of_lt hj)

theorem ffs64_eq_of_lowest {v : BitVec 64} {i : Nat} (hi : v.getLsbD i = true)
    (hlow : ∀ k, k < i → v.getLsbD k = false) : ffs64 v = i + 1 := by
  have hfind : (List.range 64).find? (fun i => v.getLsbD i) = some i := by
    rw [List.find?_range_eq_some]
    exact ⟨hi, List.mem_range.2 (BitVec.lt_of_getLsbD hi), fun j hj => by simp [hlow j hj]⟩
  rw [ffs64, hfind]

theorem msb64_eq_of_highest {v : BitVec 64} {i : Nat} (hi : v.getLsbD i = true)
    (hhigh : ∀ k, i < k → v.getLsbD k = false) : msb64 v = i := by
  rw [msb64, find?_reverse_range (p := fun i => v.getLsbD i) (BitVec.lt_of_getLsbD hi) hi
    fun j hij _ => hhigh j hij]

/-- A payload that is not 0 has a lowest set bit. -/
theorem exists_lowest_bit {v : BitVec 64} (hv : v ≠ 0) :
    ∃ i, v.getLsbD i = true ∧ ∀ k, k < i → v.getLsbD k = false := by
  have hsome : ∃ i, v.getLsbD i = true := by
    by_contra hnone
    refine hv (BitVec.eq_of_getLsbD_eq fun i _ => ?_)
    simpa using not_exists.1 hnone i
  exact ⟨Nat.find hsome, Nat.find_spec hsome, fun k hk => by simpa using Nat.find_min hsome hk⟩

theorem exists_highest_bit {v : BitVec 64} (hv : v ≠ 0) :
    ∃ i, v.getLsbD i = true ∧ ∀ k, i < k → v.getLsbD k = false := by
  have hsome : ∃ i ≤ 63, v.getLsbD i = true := by
    obtain ⟨i, hi, -⟩ := exists_lowest_bit hv
    exact ⟨i, Nat.le_of_lt_succ (BitVec.lt_of_getLsbD hi), hi⟩
  obtain ⟨j, hj, hset⟩ := hsome
  refine ⟨Nat.findGreatest (fun i => v.getLsbD i = true) 63, 
    Nat.findGreatest_spec (P := fun i => v.getLsbD i = true) hj hset, fun k hk => ?_⟩
  by_cases hk64 : k ≤ 63
  · simpa using Nat.findGreatest_is_greatest hk hk64
  · exact BitVec.getLsbD_of_ge v k (by omega)

theorem ffs64_zero : ffs64 0 = 0 := by decide

/-! ## The two modes (R143) -/

theorem dlcOf_compatible_of_lowest {v : BitVec 64} {i : Nat} (hi : v.getLsbD i = true)
    (hlow : ∀ k, k < i → v.getLsbD k = false) :
    dlcOf v false = BitVec.ofNat 8 (8 - (i + 1) / 8) := by
  rw [dlcOf, if_pos rfl, ffs64_eq_of_lowest hi hlow]

theorem dlcOf_fixed_of_highest {v : BitVec 64} {i : Nat} (hi : v.getLsbD i = true)
    (hhigh : ∀ k, i < k → v.getLsbD k = false) :
    dlcOf v true = BitVec.ofNat 8 (i / 8 + 1) := by
  have hv : v ≠ 0 := by rintro rfl; simp at hi
  rw [dlcOf, if_neg (by simp), if_neg hv, msb64_eq_of_highest hi hhigh]

theorem dlcOf_zero_compatible : dlcOf 0 false = 8 := by
  rw [dlcOf, if_pos rfl, ffs64_zero]
  rfl

theorem dlcOf_zero_fixed : dlcOf 0 true = 0 := rfl

theorem ofNat_byte_eq_zero_iff {n : Nat} (hn : n ≤ 8) : BitVec.ofNat 8 n = 0 ↔ n = 0 := by
  rw [← BitVec.toNat_inj, BitVec.toNat_ofNat, Nat.mod_eq_of_lt (by omega)]
  rfl

theorem topBit_getLsbD {k : Nat} (hk : k < 64) :
    (1#64 <<< 63).getLsbD k = decide (k = 63) := by
  rw [BitVec.getLsbD_shiftLeft, BitVec.getLsbD_one, Bool.eq_iff_iff]
  simp only [Bool.and_eq_true, Bool.not_eq_true', decide_eq_true_eq, decide_eq_false_iff_not]
  omega

/-- Only bit 63 set: the one payload whose compatible length is 0. -/
theorem eq_topBit_iff {v : BitVec 64} {i : Nat} (hi : v.getLsbD i = true)
    (hlow : ∀ k, k < i → v.getLsbD k = false) : v = 1#64 <<< 63 ↔ i = 63 := by
  constructor
  · rintro rfl
    rw [topBit_getLsbD (BitVec.lt_of_getLsbD hi)] at hi
    exact of_decide_eq_true hi
  · rintro rfl
    refine BitVec.eq_of_getLsbD_eq fun k hk => ?_
    rw [topBit_getLsbD hk]
    obtain rfl | hlt := Nat.eq_or_lt_of_le (Nat.le_of_lt_succ hk)
    · exact hi
    · rw [hlow k hlt, decide_eq_false (Nat.ne_of_lt hlt)]

theorem dlcOf_compatible_eq_zero_iff (v : BitVec 64) : dlcOf v false = 0 ↔ v = 1#64 <<< 63 := by
  by_cases hv : v = 0
  · subst hv
    rw [dlcOf_zero_compatible]
    decide
  · obtain ⟨i, hi, hlow⟩ := exists_lowest_bit hv
    have hlt := BitVec.lt_of_getLsbD hi
    rw [dlcOf_compatible_of_lowest hi hlow, ofNat_byte_eq_zero_iff (by omega),
      eq_topBit_iff hi hlow]
    omega

theorem dlcOf_fixed_eq_zero_iff (v : BitVec 64) : dlcOf v true = 0 ↔ v = 0 := by
  by_cases hv : v = 0
  · subst hv
    exact iff_of_true dlcOf_zero_fixed rfl
  · obtain ⟨i, hi, hhigh⟩ := exists_highest_bit hv
    have hlt := BitVec.lt_of_getLsbD hi
    rw [dlcOf_fixed_of_highest hi hhigh, ofNat_byte_eq_zero_iff (by omega)]
    exact iff_of_false (Nat.succ_ne_zero _) hv

theorem dlcOf_toNat_le (v : BitVec 64) (mode : Bool) : (dlcOf v mode).toNat ≤ 8 := by
  have hbyte : ∀ n, n ≤ 8 → (BitVec.ofNat 8 n).toNat ≤ 8 := fun n hn =>
    (Nat.mod_le _ _).trans hn
  cases mode with
  | false =>
    rw [dlcOf, if_pos rfl]
    exact hbyte _ (Nat.sub_le _ _)
  | true =>
    by_cases hv : v = 0
    · subst hv
      decide
    · obtain ⟨i, hi, hhigh⟩ := exists_highest_bit hv
      have hlt := BitVec.lt_of_getLsbD hi
      rw [dlcOf_fixed_of_highest hi hhigh]
      exact hbyte _ (by omega)

/-- Settles O13: each mode divides the position of one set bit, the lowest or the highest, by 8. -/
theorem derivedLength : Obligations.DerivedLength := by
  refine ⟨dlcOf_zero_compatible, dlcOf_zero_fixed, fun v b t hb ht hset hlow => ?_,
    fun v b t hb ht hset hhigh => ?_, dlcOf_compatible_eq_zero_iff, dlcOf_fixed_eq_zero_iff,
    dlcOf_toNat_le⟩
  · rw [dlcOf_compatible_of_lowest hset hlow]
    congr 1
    split <;> omega
  · rw [dlcOf_fixed_of_highest hset hhigh]
    congr 1
    omega

/-! ## The frame of a received record (R280) -/

/-- The mask of a record's payload keeps the bits of its first dlc bytes. -/
theorem payloadMask_getLsbD (n i : Nat) :
    (BitVec.ofNat 64 (2 ^ (8 * n) - 1)).getLsbD i = (decide (i < 64) && decide (i < 8 * n)) := by
  rw [BitVec.getLsbD_ofNat, Nat.testBit_two_pow_sub_one]

theorem u8Field_recordFrame (r : RxRecord) {i : Nat} (hi : i < 8) :
    u8Field (recordFrame r).data i = if i < r.dlc.toNat then u8Field r.data i else 0 := by
  refine BitVec.eq_of_getLsbD_eq fun j hj => ?_
  have hbit : 8 * i + j < 64 := by omega
  have hkept : 8 * i + j < 8 * r.dlc.toNat ↔ i < r.dlc.toNat := by omega
  simp only [u8Field, recordFrame, BitVec.getLsbD_extractLsb', BitVec.getLsbD_and,
    payloadMask_getLsbD, hj, hbit, hkept, decide_true, Bool.true_and]
  split <;> simp [*]

theorem recordFrame_dlc_toNat (r : RxRecord) : (recordFrame r).dlc.toNat = r.dlc.toNat :=
  BitVec.toNat_setWidth_of_le (by decide)

theorem recordFrame_valid {r : RxRecord} (h : r.dlc.toNat ≤ 8) :
    validFrame (recordFrame r) = true := by
  obtain ⟨hs, hm, ht⟩ := wire_fields_le r.wire
  have hdlc : (recordFrame r).dlc.toNat ≤ 8 := by rwa [recordFrame_dlc_toNat]
  simp only [validFrame, Bool.and_eq_true, decide_eq_true_eq]
  exact ⟨⟨⟨hs, hm⟩, ht⟩, hdlc⟩

/-- Settles O38: the wire id's fields are in range for every value, and the mask cuts the payload at
the dlc. -/
theorem receivedFrameIsValidAndMasked : Obligations.ReceivedFrameIsValidAndMasked :=
  fun r h => ⟨recordFrame_valid h, wireSource_toNat r.wire, wireType_toNat r.wire,
    wireMsg_toNat r.wire, recordFrame_dlc_toNat r, fun _ => u8Field_recordFrame r⟩

end Sys2Proof.Machine
end

section
/-! PROCESS_EVENT by the event's id (45_rxtx.md R262) and the one attempt of a TX event (R266). -/

namespace Sys2Proof.Machine

open Sys2Proof

/-! ## PROCESS_EVENT (R262) -/

section ProcessEvent

variable {s : State} (hc : s.blk.engCallout = .none) (hi : s.blk.init = true)
include hc hi

theorem execProcessEvent_of_rxEvent {e : Half} (he : e = s.blk.rxEventId) (d : Half) :
    execProcessEvent e d s =
      .next { s with blk.fsmState := .handlingRx, blk.engMode := .rx, blk.engRem := d,
                     blk.engStatus := .ok } := by
  rw [execProcessEvent, if_neg (not_not_intro hc), if_neg (by simp [hi]), if_pos he]

theorem execProcessEvent_of_txEvent (hids : s.blk.txEventId ≠ s.blk.rxEventId) (d : Half) :
    execProcessEvent s.blk.txEventId d s =
      .next (({ s with blk.fsmState := .handlingTx } : State).txProcess.doneHost .ok 1 []) := by
  rw [execProcessEvent, if_neg (not_not_intro hc), if_neg (by simp [hi]), if_neg hids, if_pos rfl]

end ProcessEvent

/-- Settles O33: PROCESS_EVENT tests Busy, Uninitialized, the RX event and the TX event in turn. -/
theorem processEventResult : Obligations.ProcessEventResult :=
  fun e d s => ⟨by rw [← halfWord_eq_append]; rfl,
    fun hc => by
      change execProcessEvent e d s = _
      rw [execProcessEvent, if_pos hc]
      rfl,
    fun hc hi => execProcessEvent_of_uninit hc hi e d,
    fun hc hi he => execProcessEvent_of_rxEvent hc hi he d,
    fun hc hi hrx htx => execProcessEvent_of_unhandled hc hi hrx htx d⟩

/-! ## One attempt of TX processing (R266) -/

theorem State.txProcess_of_empty {s : State} (hq : s.blk.txq = []) : s.txProcess = s := by
  rw [State.txProcess, hq]

theorem State.txProcess_of_ok {s : State} {f : Frame} {rest : List Frame}
    (hq : s.blk.txq = f :: rest) (ha : s.nextAnswer = .ok) :
    s.txProcess = s.useAnswer.txAccepted f := by
  rw [State.txProcess, hq]
  simp only [ha]

theorem State.txProcess_of_busy {s : State} {f : Frame} {rest : List Frame}
    (hq : s.blk.txq = f :: rest) (ha : s.nextAnswer = .busy) :
    s.txProcess = s.useAnswer.txRefused := by
  rw [State.txProcess, hq]
  simp only [ha]

/-- The frame leaves the FIFO for the bus (R353). -/
theorem State.txAccepted_eq {s : State} {f : Frame} {rest : List Frame}
    (hq : s.blk.txq = f :: rest) :
    s.txAccepted f =
      { s with blk.txq := rest, blk.txFailCount := 0, busLog := s.busLog ++ [busFrame f] } := by
  rw [State.txAccepted, hq]
  rfl

/-- Below the limit the attempt is to be repeated. -/
theorem State.txRefused_of_below {s : State}
    (h : s.blk.txRetryLimit = 0 ∨ (satIncr s.blk.txFailCount).toNat < s.blk.txRetryLimit.toNat) :
    s.txRefused =
      { s with
        blk.txFailCount := satIncr s.blk.txFailCount,
        evq := if s.evq.length < s.params.evqCapacity
          then s.evq ++ [{ id := s.blk.txEventId, data := 0 }] else s.evq } := by
  rw [State.txRefused, if_pos h, State.evRaise_eq]

/-- At the limit transmission stalls. -/
theorem State.txRefused_of_limit {s : State} (h0 : s.blk.txRetryLimit ≠ 0)
    (hlimit : s.blk.txRetryLimit.toNat ≤ (satIncr s.blk.txFailCount).toNat) :
    s.txRefused =
      { s with blk.txFailCount := satIncr s.blk.txFailCount,
               blk.status := s.blk.status ||| 0b010000#6 } := by
  rw [State.txRefused, if_neg (not_or.2 ⟨h0, Nat.not_lt.2 hlimit⟩)]
  rfl

theorem satIncr_eq_ofNat (n : Half) : satIncr n = BitVec.ofNat 16 (min (n.toNat + 1) 0xFFFF) := by
  rw [← satIncr_toNat, BitVec.ofNat_toNat, BitVec.setWidth_eq]

/-- Settles O34: an empty FIFO, an ok answer, and a busy answer below or at the limit. -/
theorem txEventMakesOneAttempt : Obligations.TxEventMakesOneAttempt := by
  intro d s hc hi hids
  have hexec := execProcessEvent_of_txEvent hc hi hids d
  refine ⟨fun hq => ?_, fun f rest hq ha => ?_, fun f rest n hq ha hn hbelow => ?_,
    fun f rest n hq ha hn h0 hlimit => ?_⟩ <;> refine hexec.trans ?_
  · rw [State.txProcess_of_empty (by exact hq)]
  · rw [State.txProcess_of_ok (by exact hq) (by exact ha), State.txAccepted_eq (by exact hq)]
    rfl
  · rw [State.txProcess_of_busy (by exact hq) (by exact ha), State.txRefused_of_below, hn,
      ← satIncr_eq_ofNat]
    · rfl
    · exact hbelow.imp_right fun h => by rwa [hn, ← satIncr_toNat] at h
  · rw [State.txProcess_of_busy (by exact hq) (by exact ha), State.txRefused_of_limit (by exact h0),
      hn, ← satIncr_eq_ofNat]
    · rfl
    · rwa [hn, ← satIncr_toNat] at hlimit

end Sys2Proof.Machine
end

section
/-! What one RX Engine step does (45_rxtx.md R271, R275): how a batch ends, and where the entry
served next goes. -/

namespace Sys2Proof.Machine

open Sys2Proof

/-! ## The entry served next leaves the queue (R172) -/

/-- The entry served next stands at its first place: the entries before it have a greater key. -/
theorem withoutSel_eq_eraseIdx {xs : List QEntry} {e : QEntry} (he : sel xs = some e) :
    withoutSel xs = xs.eraseIdx (xs.idxOf e) := by
  obtain ⟨l, r, rfl, hrest, hbefore, -⟩ := sel_first_least he
  have hnew : e ∉ l := fun hmem => Nat.lt_irrefl _ (hbefore e hmem)
  rw [hrest, List.idxOf_append_of_notMem hnew, List.idxOf_cons_self, Nat.add_zero,
    List.eraseIdx_append_of_length_le (Nat.le_refl _), Nat.sub_self, List.eraseIdx_cons_zero]

theorem takeServed_stable {s : State} {e : QEntry} (he : sel s.blk.rxq = some e)
    (hstable : s.params.pqTie = .stable) :
    s.takeServed.blk.rxq = s.blk.rxq.eraseIdx (s.blk.rxq.idxOf e) := by
  rw [State.takeServed_blk, hstable, retie_stable, withoutSel_eq_eraseIdx he]

/-! ## The frame that has been taken, by its type (R271) -/

theorem State.rxFrame_of_ack {f : Frame} (hty : f.ty = 1) (s : State) :
    s.rxFrame f = s.resolve f := if_pos hty

theorem State.rxFrame_of_data {f : Frame} (hty : f.ty = 0) (s : State) :
    s.rxFrame f = s.dispatch f := by
  rw [State.rxFrame, if_neg (by rw [hty]; decide), if_pos hty]

/-- A frame of another type ends the batch. -/
theorem State.rxFrame_of_foreign {f : Frame} (h0 : f.ty ≠ 0) (h1 : f.ty ≠ 1) (s : State) :
    s.rxFrame f =
      ({ s.mark .rxInconsistent with
          blk.engStatus := .internalInconsistency } : State).rxFinish := by
  rw [State.rxFrame, if_neg h1, if_neg h0]

/-- Settles O36: the count is tested first, then the queue, then the frame's type. -/
theorem rxBatchEnds : Obligations.RxBatchEnds := by
  intro s hm _
  rw [engineStep_of_rx hm]
  refine ⟨fun hr => ?_, fun hr hq => ?_, fun hr e he h0 h1 => ?_⟩
  · rw [rxStep, if_pos hr]
    rfl
  · rw [rxStep, if_neg hr, hq]
    rfl
  · refine ⟨s.takeServed.blk.rxq, takeServed_perm he, takeServed_stable he, ?_⟩
    rw [rxStep_of_sel hr he, State.rxFrame_of_foreign h0 h1]
    rfl

/-! ## The handler of a Data frame (R275, R203) -/

/-- A handler comes from an entry of the frame's id, or is the default where there is none. -/
theorem handlerFor_some {s : State} {m : Half} {h : Handler} (hh : s.handlerFor m = some h) :
    s.blk.regInit = true ∧
      ((∃ l r later, s.blk.reg = l ++ r :: later ∧ r.msgId = m ∧
          (s.params.dupLookup = .newest → ∀ x ∈ later, x.msgId ≠ m) ∧
          h = { cb := r.cb, ctx := r.ctx }) ∨
        ((∀ r ∈ s.blk.reg, r.msgId ≠ m) ∧ s.blk.regDefault = some h)) := by
  unfold State.handlerFor at hh
  split at hh
  next => cases hh
  next hinit =>
    refine ⟨by simpa using hinit, ?_⟩
    split at hh
    next r hfound =>
      obtain ⟨l, later, hsplit, hid, hnewest⟩ := findReg_split hfound
      exact .inl ⟨l, r, later, hsplit, hid, hnewest, (Option.some.inj hh).symm⟩
    next hmiss => exact .inr ⟨findReg_none.1 hmiss, hh⟩

theorem handlerFor_none {s : State} {m : Half} (hh : s.handlerFor m = none)
    (hinit : s.blk.regInit = true) :
    (∀ r ∈ s.blk.reg, r.msgId ≠ m) ∧ s.blk.regDefault = none := by
  rw [State.handlerFor, if_neg (by simp [hinit])] at hh
  split at hh
  next => cases hh
  next hmiss => exact ⟨findReg_none.1 hmiss, hh⟩

/-- Settles O37: the entry taken is `State.takeServed`'s, and a Data frame's handler is
`State.handlerFor`'s. -/
theorem rxStepDispatchesByType : Obligations.RxStepDispatchesByType := by
  intro s e hm _ hr he
  refine ⟨s.takeServed.blk.rxq, takeServed_perm he, takeServed_stable he, s.takeServed, rfl, ?_⟩
  rw [engineStep_of_rx hm, rxStep_of_sel hr he]
  refine ⟨fun hty => s.takeServed.rxFrame_of_ack hty, fun hty => ?_⟩
  rw [State.rxFrame_of_data hty]
  obtain ⟨h, hh, e⟩ | ⟨hh, e⟩ := s.takeServed.dispatch_cases e.frame
  · obtain ⟨hinit, hsource⟩ := handlerFor_some (s := s.takeServed) hh
    exact .inl ⟨h, hinit, hsource, e⟩
  · exact .inr ⟨handlerFor_none (s := s.takeServed) hh, e⟩

end Sys2Proof.Machine
end

section
/-! RX_IRQ (45_rxtx.md R280): which frames are pushed, and what the command leaves. -/

namespace Sys2Proof.Machine

open Sys2Proof

/-- The entry that carries the frame of a received record (R280). -/
def arrival (r : RxRecord) : QEntry :=
  { key := (recordFrame r).msgId, frame := recordFrame r }

/-- The entries that RX_IRQ pushes: those of the first records, as many as have room. -/
def accepted (s : State) (rs : List RxRecord) : List QEntry :=
  (rs.map arrival).take (s.blk.rxqCap.toNat - s.blk.rxq.length)

theorem accepted_of_full {s : State} (hfull : s.blk.rxq.length = s.blk.rxqCap.toNat)
    (rs : List RxRecord) : accepted s rs = [] := by
  rw [accepted, hfull, Nat.sub_self, List.take_zero]

theorem accepted_cons_of_room {s : State} (hroom : s.blk.rxq.length < s.blk.rxqCap.toNat)
    (r : RxRecord) (rs : List RxRecord) :
    accepted s (r :: rs) = arrival r :: accepted (s.setRxq (s.blk.rxq ++ [arrival r])) rs := by
  have hplaces : s.blk.rxqCap.toNat - s.blk.rxq.length =
      s.blk.rxqCap.toNat - (s.blk.rxq.length + 1) + 1 := by omega
  simp [accepted, hplaces]

/-- A full queue takes none of the frames, and the first one sets RX_OVERRUN. -/
theorem rxDeliver_fold_of_full {s : State} (hfull : s.blk.rxq.length = s.blk.rxqCap.toNat)
    (r : RxRecord) (rs : List RxRecord) (n : Nat) :
    (r :: rs).foldl rxDeliver (s, n) = (s.mark .rxOverrun, n) := by
  have hdropped : rxDeliver (s, n) r = (s.mark .rxOverrun, n) := by
    obtain ⟨-, e⟩ | ⟨hroom, -⟩ := rxDeliver_cases s n r
    · exact e
    · exact absurd hfull hroom
  rw [List.foldl_cons, hdropped]
  cases rs with
  | nil => rfl
  | cons r' rs =>
    have hagain : (s.mark .rxOverrun).mark .rxOverrun = s.mark .rxOverrun := by
      simp only [State.mark, markStatus, BitVec.or_assoc, BitVec.or_self]
    rw [rxDeliver_fold_of_full (by exact hfull) r' rs n, hagain]

theorem rxDeliver_of_room {s : State} (hroom : s.blk.rxq.length < s.blk.rxqCap.toNat)
    (n : Nat) (r : RxRecord) :
    rxDeliver (s, n) r = (s.setRxq (s.blk.rxq ++ [arrival r]), n + 1) := by
  obtain ⟨hfull, -⟩ | ⟨-, e⟩ := rxDeliver_cases s n r
  · exact absurd hfull (Nat.ne_of_lt hroom)
  · exact e

/-- Delivery pushes the frames that have room, and sets RX_OVERRUN where some have none. -/
theorem rxDeliver_fold_eq (rs : List RxRecord) {s : State}
    (hcap : s.blk.rxq.length ≤ s.blk.rxqCap.toNat) (n : Nat) :
    ∃ xs d, xs.Perm (s.blk.rxq ++ accepted s rs) ∧
      (s.params.pqTie = .stable → xs = s.blk.rxq ++ accepted s rs) ∧
      rs.foldl rxDeliver (s, n) =
        ({ s with
          blk.rxq := xs,
          blk.status := if (accepted s rs).length < rs.length
            then s.blk.status ||| 0b000001#6 else s.blk.status,
          draws := d }, n + (accepted s rs).length) := by
  induction rs generalizing s n with
  | nil => exact ⟨s.blk.rxq, s.draws, by simp [accepted], by simp [accepted], by simp [accepted]⟩
  | cons r rs ih =>
    obtain hfull | hroom := Nat.eq_or_lt_of_le hcap
    · refine ⟨s.blk.rxq, s.draws, ?_⟩
      rw [accepted_of_full hfull, rxDeliver_fold_of_full hfull]
      exact ⟨by simp, by simp, rfl⟩
    · obtain ⟨xs, d, hperm, hstable, hfold⟩ :=
        ih (s := s.setRxq (s.blk.rxq ++ [arrival r])) (by simpa using hroom) (n + 1)
      have hpushed : s.blk.rxq ++ accepted s (r :: rs) = s.blk.rxq ++ [arrival r] ++
          accepted (s.setRxq (s.blk.rxq ++ [arrival r])) rs := by
        rw [accepted_cons_of_room hroom, List.append_assoc, List.singleton_append]
      refine ⟨xs, d, ?_, fun htie => ?_, ?_⟩
      · rw [hpushed]
        exact hperm.trans ((retie_perm _ _ _).append_right _)
      · rw [hpushed, hstable htie, State.setRxq_blk, htie, retie_stable]
      · rw [List.foldl_cons, rxDeliver_of_room hroom, hfold, accepted_cons_of_room hroom]
        simp [Nat.add_assoc, Nat.add_comm 1]

/-- RX_IRQ raises one RX event, where it pushed a frame and the event queue has room (R352). -/
theorem rxRaised_eq_evq (p : State × Nat) :
    rxRaised p =
      { p.1 with evq := if 0 < p.2 ∧ p.1.evq.length < p.1.params.evqCapacity
          then p.1.evq ++ [{ id := p.1.blk.rxEventId, data := BitVec.ofNat 16 p.2 }]
          else p.1.evq } := by
  by_cases hn : 0 < p.2
  · simp only [rxRaised, gt_iff_lt, hn, if_true, true_and, State.evRaise_eq]
  · simp only [rxRaised, gt_iff_lt, hn, if_false, false_and]

/-- Settles O39: the records' frames are delivered by `rxDeliver_fold_eq`, and then the event is
raised. -/
theorem rxIrqDeliversUntilFull : Obligations.RxIrqDeliversUntilFull := by
  intro rs s hrs hi hq hcap
  obtain ⟨xs, d, hperm, hstable, hfold⟩ := rxDeliver_fold_eq rs hcap 0
  have hexec := execRxIrq_eq_of_init (rs := rs) s
    (by simpa using hrs) (by simp [hi, hq])
  rw [hfold, rxRaised_eq_evq, Nat.zero_add] at hexec
  exact ⟨rs.map arrival, accepted s rs, xs, _, d, by rw [List.map_map]; rfl, rfl, rfl, hperm,
    hstable, hexec⟩

end Sys2Proof.Machine
end

section
/-! What CSR_READ answers for each CSR (46_csr.md R320, R321), and the words of the encoding tables:
sample commands (30_encoding.md R104, R106) and a DONE's R0 (R110). -/

namespace Sys2Proof.Machine

open Sys2Proof

/-! ## The values of the CSRs as numbers (R320) -/

theorem ctrlValue_eq_ofNat (b : Block) :
    ctrlValue b = BitVec.ofNat 32
      (b.init.toNat + 2 * b.dlcMode.toNat + 4 * b.rxqInit.toNat + 8 * b.regInit.toNat) := by
  have hinit := Bool.toNat_le b.init
  have hmode := Bool.toNat_le b.dlcMode
  have hrxq := Bool.toNat_le b.rxqInit
  have hreg := Bool.toNat_le b.regInit
  apply BitVec.eq_of_toNat_eq
  rw [ctrlValue, append_toNat, append_toNat, append_toNat, append_toNat]
  simp only [BitVec.toNat_ofBool, BitVec.toNat_ofNat]
  omega

theorem eventIdsValue_eq_ofNat (tx rx : Half) :
    tx ++ rx = BitVec.ofNat 32 (tx.toNat * 65536 + rx.toNat) := by
  apply BitVec.eq_of_toNat_eq
  rw [append_toNat, BitVec.toNat_ofNat]
  omega

theorem critMaskLo_eq_ofNat (m : BitVec 64) :
    m.extractLsb' 0 32 = BitVec.ofNat 32 (m.toNat % 2 ^ 32) := by
  apply BitVec.eq_of_toNat_eq
  rw [extractLsb'_toNat_eq_div, BitVec.toNat_ofNat]
  omega

theorem critMaskHi_eq_ofNat (m : BitVec 64) :
    m.extractLsb' 32 32 = BitVec.ofNat 32 (m.toNat / 2 ^ 32) := by
  apply BitVec.eq_of_toNat_eq
  rw [extractLsb'_toNat_eq_div, BitVec.toNat_ofNat]

theorem infoValue_eq_ofNat (cap len : Nat) :
    infoValue cap len = BitVec.ofNat 32 (cap % 65536 * 65536 + len % 65536) := by
  apply BitVec.eq_of_toNat_eq
  rw [infoValue, append_toNat]
  simp only [BitVec.toNat_ofNat]
  omega

/-- A capacity that is a 16-bit field shows as it is. -/
theorem infoValue_toNat_eq_ofNat (cap : Half) (len : Nat) :
    infoValue cap.toNat len = BitVec.ofNat 32 (cap.toNat * 65536 + len % 65536) := by
  rw [infoValue_eq_ofNat, Nat.mod_eq_of_lt cap.isLt]

/-! ## CSR_READ (R321) -/

theorem exec_csrRead_of_unassigned {n : Byte} (hn : n.toNat > 0x0E) (s : State) :
    exec (.csrRead n) s = .next (s.doneHost .illegalCommand 0 []) := by
  change execCsrRead n s = _
  rw [execCsrRead, csrOfNum_eq_none hn]
  rfl

theorem exec_csrRead_of_value {s : State} {n : Byte} {c : Csr} {v : Word}
    (hn : csrOfNum n = some c) (hv : csrValue s c = v) :
    exec (.csrRead n) s = .next (s.doneHost .ok 0 [v]) :=
  hv ▸ exec_csrRead_of_assigned hn s

/-- Settles O41: each assigned number names its CSR, and the value of that CSR is its fields'. -/
theorem csrReadResult : Obligations.CsrReadResult := fun s =>
  have half (h : Half) : halfWord h = BitVec.ofNat 32 h.toNat := (BitVec.ofNat_toNat 32 h).symm
  ⟨fun _ => rfl, fun _ hn => exec_csrRead_of_unassigned hn s,
    exec_csrRead_of_value (c := .ctrl) rfl (ctrlValue_eq_ofNat s.blk),
    exec_csrRead_of_value (c := .status) rfl (BitVec.ofNat_toNat 32 s.blk.status).symm,
    exec_csrRead_of_value (c := .deviceId) rfl (half _),
    exec_csrRead_of_value (c := .eventIds) rfl (eventIdsValue_eq_ofNat _ _),
    exec_csrRead_of_value (c := .faultEventId) rfl (half _),
    exec_csrRead_of_value (c := .critMaskLo) rfl (critMaskLo_eq_ofNat _),
    exec_csrRead_of_value (c := .critMaskHi) rfl (critMaskHi_eq_ofNat _),
    exec_csrRead_of_value (c := .ackTimeout) rfl (half _),
    exec_csrRead_of_value (c := .txRetryLimit) rfl (half _),
    exec_csrRead_of_value (c := .txFailCount) rfl (half _),
    exec_csrRead_of_value (c := .fsmState) rfl
      (by simp only [csrValue]; cases s.blk.fsmState <;> rfl),
    exec_csrRead_of_value (c := .rxqInfo) rfl (infoValue_toNat_eq_ofNat _ _),
    exec_csrRead_of_value (c := .txqInfo) rfl (infoValue_eq_ofNat _ _),
    exec_csrRead_of_value (c := .regInfo) rfl (infoValue_toNat_eq_ofNat _ _),
    exec_csrRead_of_value (c := .ackInfo) rfl (infoValue_eq_ofNat _ _)⟩

/-! ## Sample commands and responses (R104, R106, R110) -/

/-- Settles O6: the decoder evaluates on each of the eight word sequences. -/
theorem specWordsDecode : Obligations.SpecWordsDecode := by
  unfold Obligations.SpecWordsDecode
  decide

/-- The kind of a DONE is 0, so R0 holds the code above val16 (R110). -/
theorem respWord_done_toNat (code : Byte) (v : Half) :
    (respWord 0x00 code v).toNat = code.toNat * 65536 + v.toNat := by
  have hkind : BitVec.toNat (0x00 : Byte) = 0 := rfl
  rw [respWord, append_toNat, append_toNat, hkind]
  omega

/-- Settles O7: R0 by `respWord_done_toNat`, and the codes as R340 lists them. -/
theorem doneResponseLayout : Obligations.DoneResponseLayout :=
  ⟨fun st v _ => ⟨_, rfl, respWord_done_toNat st.code v⟩, rfl, rfl, rfl, rfl, rfl, rfl, rfl, rfl,
    rfl, rfl⟩

end Sys2Proof.Machine
end

section
/-! The boot order (70_reset_and_hazards.md R385, R386). -/

namespace Sys2Proof.Machine

open Sys2Proof

theorem execAll_cons {i : Instr} {is : List Instr} {s t : State} (h : exec i s = .next t) :
    execAll (i :: is) s = execAll is t := by
  rw [execAll, h]

/-- Settles O47: no command calls out, so each of the three passes its checks in turn, and together
they set what CleanEntry does not find in the reset block. -/
theorem bootReachesCleanEntry : Obligations.BootReachesCleanEntry := by
  intro s dev rx tx fe n k c hblk hevq hdev hids hk hn hc
  have hcallout : s.blk.engCallout = .none := by rw [hblk]; rfl
  have hcan := execAll_cons (i := .canInit dev rx tx fe)
    (is := [.pqInit n k, .regInit c]) (execCanInit_of_legal hcallout hdev hids)
  have hpq {u : State} (hu : u.blk.engCallout = .none) (hp : n.toNat ≤ u.params.rxqMaxSlots) :=
    execAll_cons (i := .pqInit n k) (is := [.regInit c]) (execPqInit_of_sizes hu hk hp)
  have hreg {u : State} (hu : u.blk.engCallout = .none) (hp : c.toNat ≤ u.params.regMaxEntries) :=
    execAll_cons (i := .regInit c) (is := []) (execRegInit_of_fits hu hp)
  refine ⟨_, hcan.trans <| (hpq (by exact hcallout) (by exact hn)).trans <|
    hreg (by exact hcallout) (by exact hc), ?_, ?_⟩
  · simp only [CleanEntry, State.doneHost_blk, State.doneHost_evq, hblk, hevq]
    decide
  · simp only [State.doneHost_hostOut, List.append_assoc]
    rfl

end Sys2Proof.Machine
end

section
/-! The busy loop of TX processing (60_exceptions.md R360; 45_rxtx.md R266): one round of the main
loop makes one refused attempt, which re-raises the TX event or, at the limit, stalls. -/

namespace Sys2Proof.Machine

open Sys2Proof

theorem runSteps_add (m n : Nat) (s : State) :
    runSteps (m + n) s = (runSteps m s).bind (runSteps n) := by
  induction m generalizing s with
  | zero => rw [Nat.zero_add]; rfl
  | succ m ih =>
    rw [Nat.succ_add, runSteps, runSteps]
    split
    next => exact ih _
    all_goals rfl

theorem runSteps_succ {s t : State} (h : step s = .next t) (n : Nat) :
    runSteps (n + 1) s = runSteps n t := by
  rw [runSteps, h]

/-- The loop's state before a round: f is to be sent, and its TX event is the one event raised. -/
structure Retrying (f : Frame) (rest : List Frame) (s : State) : Prop where
  drains : DrainsBeforeBusyTransport s
  init : s.blk.init = true
  mode : s.blk.engMode = .idle
  callout : s.blk.engCallout = .none
  ids : s.blk.txEventId ≠ s.blk.rxEventId
  txq : s.blk.txq = f :: rest
  room : 1 ≤ s.params.evqCapacity
  evq : s.evq = [{ id := s.blk.txEventId, data := 0 }]

/-- k rounds lead from s to t, and each was a refused attempt: the FIFO and the bus are as they
were, and each round counted and answered once. -/
structure RefusedRounds (k : Nat) (s t : State) : Prop where
  run : runSteps (2 * k) s = some t
  txq : t.blk.txq = s.blk.txq
  busLog : t.busLog = s.busLog
  limit : t.blk.txRetryLimit = s.blk.txRetryLimit
  failCount : t.blk.txFailCount.toNat = min (s.blk.txFailCount.toNat + k) 0xFFFF
  hostOut : t.hostOut = s.hostOut ++ List.replicate k [0x00000001#32]

theorem RefusedRounds.zero (s : State) : RefusedRounds 0 s s where
  run := rfl
  txq := rfl
  busLog := rfl
  limit := rfl
  failCount := by have := s.blk.txFailCount.isLt; omega
  hostOut := (List.append_nil _).symm

theorem RefusedRounds.add {m n : Nat} {s t u : State} (h : RefusedRounds m s t)
    (h' : RefusedRounds n t u) : RefusedRounds (m + n) s u where
  run := by rw [Nat.mul_add, runSteps_add, h.run]; exact h'.run
  txq := h'.txq.trans h.txq
  busLog := h'.busLog.trans h.busLog
  limit := h'.limit.trans h.limit
  failCount := by rw [h'.failCount, h.failCount]; omega
  hostOut := by rw [h'.hostOut, h.hostOut, List.append_assoc, List.replicate_append_replicate]

section Round

variable {f : Frame} {rest : List Frame} {s : State}

/-- process() takes the TX event and the loop forwards it: the round is PROCESS_EVENT at the state
whose event queue is empty. -/
theorem Retrying.round (h : Retrying f rest s) {t : State}
    (ht : exec (.processEvent s.blk.txEventId 0) { s with evq := [], taken := none } = .next t) :
    runSteps 2 s = some t := by
  obtain ⟨hturns, hcycle, -, -⟩ := h.drains
  have hready : s.blk.hostWaiting = false := by simp [Block.hostWaiting, h.mode]
  have hdue : s.dueTurns = [.process, .forward] := by rw [State.dueTurns, hturns, hcycle]
  have hprocess := step_of_due_process hdue hready
  simp only [State.processCall, h.evq, List.tail_cons, List.head?_cons] at hprocess
  have hforward := step_of_due_forward
    (s := { s with turns := [.forward], evq := [],
                   taken := some { id := s.blk.txEventId, data := 0 } }) rfl hready rfl
  rw [runSteps_succ hprocess, runSteps_succ (hforward.trans ?_)]
  · rfl
  · rw [← ht, ← hturns]

/-- The transport's answer to the round's attempt is busy, and remains so. -/
theorem Retrying.answers (h : Retrying f rest s) :
    s.nextAnswer = .busy ∧ s.dueAnswers.tail = s.answers := by
  obtain ⟨-, -, hanswers, hbusy⟩ := h.drains
  have hdue : s.dueAnswers = [.busy] := by rw [State.dueAnswers, hanswers, hbusy]
  exact ⟨by rw [State.nextAnswer, hdue], by rw [hdue, hanswers]; rfl⟩

/-- Below the limit a round re-raises the TX event, and the loop stands where it stood. -/
theorem Retrying.repeats (h : Retrying f rest s)
    (hbelow : s.blk.txRetryLimit = 0 ∨
      min (s.blk.txFailCount.toNat + 1) 0xFFFF < s.blk.txRetryLimit.toNat) :
    ∃ t, RefusedRounds 1 s t ∧ Retrying f rest t ∧ t.evq = s.evq ∧
      t.blk.status = s.blk.status := by
  obtain ⟨hbusy, hanswers⟩ := h.answers
  obtain ⟨-, -, hreraised, -⟩ := txEventMakesOneAttempt 0 { s with evq := [], taken := none }
    h.callout h.init h.ids
  have hrun := h.round (hreraised f rest _ h.txq hbusy rfl hbelow)
  have hroom : ([] : List Event).length < s.params.evqCapacity := h.room
  refine ⟨_, ⟨hrun, rfl, rfl, rfl, ?_, rfl⟩,
    ⟨?_, h.init, h.mode, h.callout, h.ids, h.txq, h.room, ?_⟩, ?_, rfl⟩
  · exact Nat.mod_eq_of_lt (by omega)
  · obtain ⟨hturns, hcycle, hnone, hcycle'⟩ := h.drains
    exact ⟨hturns, hcycle, hanswers.trans hnone, hcycle'⟩
  · exact if_pos hroom
  · exact (if_pos hroom).trans h.evq.symm

/-- At the limit a round stalls, and no event is left. -/
theorem Retrying.stalls (h : Retrying f rest s) (h0 : s.blk.txRetryLimit ≠ 0)
    (hlimit : s.blk.txRetryLimit.toNat ≤ min (s.blk.txFailCount.toNat + 1) 0xFFFF) :
    ∃ t, RefusedRounds 1 s t ∧ t.evq = [] ∧ statusFlag t.blk.status .txStall = true := by
  obtain ⟨hbusy, -⟩ := h.answers
  obtain ⟨-, -, -, hstalled⟩ := txEventMakesOneAttempt 0 { s with evq := [], taken := none }
    h.callout h.init h.ids
  have hrun := h.round (hstalled f rest _ h.txq hbusy rfl h0 hlimit)
  refine ⟨_, ⟨hrun, rfl, rfl, rfl, Nat.mod_eq_of_lt (by omega), rfl⟩, rfl, ?_⟩
  simp [statusFlag, StatusBit.pos]

end Round

/-- With TX_RETRY_LIMIT 0 every round is below the limit. -/
theorem Retrying.for_ever {f : Frame} {rest : List Frame} (k : Nat) {s : State}
    (h : Retrying f rest s) (h0 : s.blk.txRetryLimit = 0) :
    ∃ t, RefusedRounds k s t ∧ t.evq = s.evq ∧ t.blk.status = s.blk.status := by
  induction k generalizing s with
  | zero => exact ⟨s, .zero s, rfl, rfl⟩
  | succ k ih =>
    obtain ⟨t, hround, hagain, hevq, hstatus⟩ := h.repeats (.inl h0)
    obtain ⟨u, hrounds, hevq', hstatus'⟩ := ih hagain (hround.limit.trans h0)
    exact ⟨u, Nat.add_comm k 1 ▸ hround.add hrounds, hevq'.trans hevq, hstatus'.trans hstatus⟩

/-- With a limit at most `m + 1` refusals away, a round no later than that stalls. -/
theorem Retrying.until_limit {f : Frame} {rest : List Frame} (m : Nat) {s : State}
    (h : Retrying f rest s) (h0 : s.blk.txRetryLimit ≠ 0)
    (hm : s.blk.txRetryLimit.toNat ≤ s.blk.txFailCount.toNat + (m + 1)) :
    ∃ k t, 1 ≤ k ∧ k ≤ m + 1 ∧ RefusedRounds k s t ∧ t.evq = [] ∧
      statusFlag t.blk.status .txStall = true := by
  have hlimit := s.blk.txRetryLimit.isLt
  induction m generalizing s with
  | zero =>
    obtain ⟨t, hround, hevq, hstall⟩ := h.stalls h0 (by omega)
    exact ⟨1, t, Nat.le_refl 1, Nat.le_refl 1, hround, hevq, hstall⟩
  | succ m ih =>
    obtain hbelow | hat := Nat.lt_or_ge (min (s.blk.txFailCount.toNat + 1) 0xFFFF)
      s.blk.txRetryLimit.toNat
    · obtain ⟨t, hround, hagain, -⟩ := h.repeats (.inr hbelow)
      have hcount := hround.failCount
      obtain ⟨k, u, hk, hkm, hrounds, hevq, hstall⟩ := ih hagain (hround.limit ▸ h0)
        (by rw [hround.limit]; omega) t.blk.txRetryLimit.isLt
      exact ⟨1 + k, u, by omega, by omega, hround.add hrounds, hevq, hstall⟩
    · obtain ⟨t, hround, hevq, hstall⟩ := h.stalls h0 hat
      exact ⟨1, t, Nat.le_refl 1, by omega, hround, hevq, hstall⟩

/-- Settles O60: by induction on the rounds, of which each is below the limit or at it. -/
theorem busyTransportHangsUnlessBounded : Obligations.BusyTransportHangsUnlessBounded := by
  intro s f rest hdrains hinit hmode hcallout hids htxq hroom hevq
  have h : Retrying f rest s := ⟨hdrains, hinit, hmode, hcallout, hids, htxq, hroom, hevq⟩
  refine ⟨fun h0 k => ?_, fun h0 => ?_⟩
  · obtain ⟨t, hrounds, hevq', hstatus⟩ := h.for_ever k h0
    exact ⟨t, hrounds.run, hevq', hrounds.txq.trans htxq, hrounds.busLog, hstatus,
      hrounds.failCount, hrounds.hostOut⟩
  · have hpos : s.blk.txRetryLimit.toNat ≠ 0 := fun hz => h0 (BitVec.eq_of_toNat_eq hz)
    obtain ⟨k, t, hk, hkm, hrounds, hevq', hstall⟩ :=
      h.until_limit (s.blk.txRetryLimit.toNat - 1) h0 (by omega)
    exact ⟨k, t, hk, by omega, hrounds.run, hevq', hrounds.txq.trans htxq, hrounds.busLog, hstall,
      hrounds.hostOut⟩

end Sys2Proof.Machine
end
